-- ==== Sys2Proof/Word.lean ====
section
/-! DEFINITION. The value types of AES-CORE (00_scope.md R10) and word XOR (41_key_schedule.md R130). -/

set_option autoImplicit false

namespace Sys2Proof

/-- R10: an 8-bit unsigned value. Bit 0 is the least significant (R9). -/
abbrev Byte := BitVec 8

/-- R10: a sequence of 4 bytes `(w.0, w.1, w.2, w.3)`; `w[0]` is its first byte. -/
abbrev Word := Vector Byte 4

/-- R10: a sequence of 16 bytes `b[0..15]`. -/
abbrev Block := Vector Byte 16

/-- The 32-byte records: `KEY`, `CDATA`, `RDATA` (R22, R49). -/
abbrev Bytes32 := Vector Byte 32

/-- R139: a sequence of 4 words. -/
abbrev RoundKey := Vector Word 4

/-- R41: the schedule store `W[0..59]`, `NSCHED` = 60 words (R8). -/
abbrev ScheduleStore := Vector Word 60

/-- R2, R10: the three key sizes. The code 0b11 is no key size (R7, R24). -/
inductive KeySize where
  | aes128
  | aes192
  | aes256
deriving DecidableEq, Repr, Inhabited

/-- The word of four zero bytes. -/
def zeroWord : Word := Vector.replicate 4 0

/-- R11: `zero32`. -/
def zero32 : Bytes32 := Vector.replicate 32 0

/-- R130: word XOR is byte-wise. -/
def xorWord (a b : Word) : Word := Vector.zipWith (· ^^^ ·) a b

end Sys2Proof
end

