-- ==== Sys2Proof/Machine/Field.lean ====
section
/-! DEFINITION. GF(2^8) and the substitution tables (40_field_primitives.md): the units `gf_xtime`, `gf_mulc` and
`aes_sbox`, the field multiplication of R100, and the affine map of R107. -/

set_option autoImplicit false

namespace Sys2Proof.Machine

/-! The field. -/

/-- R101: `xtime(b)`, the unit `gf_xtime` (R113). Shift left one bit; if the bit shifted out was 1, XOR with 0x1b. -/
def gfXtime (b : Byte) : Byte :=
  let t : Byte := ((b.setWidth 9) <<< 1).setWidth 8
  if b.getLsbD 7 then t ^^^ 0x1b else t

/-- R102: the constants that MixColumns and InvMixColumns multiply by. -/
inductive MulConst where
  | c1 | c2 | c3 | c9 | c11 | c13 | c14
deriving DecidableEq, Repr

/-- R102: the constant as a byte. -/
def MulConst.byte : MulConst → Byte
  | .c1 => 1
  | .c2 => 2
  | .c3 => 3
  | .c9 => 9
  | .c11 => 11
  | .c13 => 13
  | .c14 => 14

/-- R102: `gf_mulc(b, c)`, by chained `xtime` and XOR; one output of the unit `gf_mulc` for each constant (R113). -/
def gfMulc (b : Byte) (c : MulConst) : Byte :=
  let m2 := gfXtime b
  let m4 := gfXtime m2
  let m8 := gfXtime m4
  match c with
  | .c1 => b
  | .c2 => m2
  | .c3 => m2 ^^^ b
  | .c9 => m8 ^^^ b
  | .c11 => m8 ^^^ m2 ^^^ b
  | .c13 => m8 ^^^ m4 ^^^ b
  | .c14 => m8 ^^^ m4 ^^^ m2

/-- R100: the product of two bytes as polynomials over GF(2), before reduction (degree at most 14). -/
def polyMul (a b : Byte) : BitVec 15 :=
  (List.range 8).foldl (fun acc i => if b.getLsbD i then acc ^^^ (a.setWidth 15 <<< i) else acc) 0

/-- R100: reduction modulo the field polynomial, whose 9 bits are 0x11b, from degree 14 down to degree 8. -/
def polyReduce (p : BitVec 15) : Byte :=
  ((List.range 7).foldl
    (fun acc k => if acc.getLsbD (14 - k) then acc ^^^ ((0x11b : BitVec 15) <<< (6 - k)) else acc) p).setWidth 8

/-- R100: field multiplication. No command computes it; R102 and R107 are about it. -/
def gfMul (a b : Byte) : Byte := polyReduce (polyMul a b)

/-- R107: the affine map `A`, bit `i` of which XORs bits `i`, `i+4`, `i+5`, `i+6`, `i+7` (mod 8) of `x` and bit `i` of
0x63. For checking the table only. -/
def sboxAffine (x : Byte) : Byte :=
  x ^^^ x.rotateRight 4 ^^^ x.rotateRight 5 ^^^ x.rotateRight 6 ^^^ x.rotateRight 7 ^^^ 0x63

/-! The substitution tables. -/

/-- R104: row `b[7:4]`, column `b[3:0]`. PRESUMED, unsafe, log entry 11: the spec marks its contents as general knowledge. -/
def sboxTable : Vector (Vector Byte 16) 16 := #v[
  #v[0x63, 0x7c, 0x77, 0x7b, 0xf2, 0x6b, 0x6f, 0xc5, 0x30, 0x01, 0x67, 0x2b, 0xfe, 0xd7, 0xab, 0x76],
  #v[0xca, 0x82, 0xc9, 0x7d, 0xfa, 0x59, 0x47, 0xf0, 0xad, 0xd4, 0xa2, 0xaf, 0x9c, 0xa4, 0x72, 0xc0],
  #v[0xb7, 0xfd, 0x93, 0x26, 0x36, 0x3f, 0xf7, 0xcc, 0x34, 0xa5, 0xe5, 0xf1, 0x71, 0xd8, 0x31, 0x15],
  #v[0x04, 0xc7, 0x23, 0xc3, 0x18, 0x96, 0x05, 0x9a, 0x07, 0x12, 0x80, 0xe2, 0xeb, 0x27, 0xb2, 0x75],
  #v[0x09, 0x83, 0x2c, 0x1a, 0x1b, 0x6e, 0x5a, 0xa0, 0x52, 0x3b, 0xd6, 0xb3, 0x29, 0xe3, 0x2f, 0x84],
  #v[0x53, 0xd1, 0x00, 0xed, 0x20, 0xfc, 0xb1, 0x5b, 0x6a, 0xcb, 0xbe, 0x39, 0x4a, 0x4c, 0x58, 0xcf],
  #v[0xd0, 0xef, 0xaa, 0xfb, 0x43, 0x4d, 0x33, 0x85, 0x45, 0xf9, 0x02, 0x7f, 0x50, 0x3c, 0x9f, 0xa8],
  #v[0x51, 0xa3, 0x40, 0x8f, 0x92, 0x9d, 0x38, 0xf5, 0xbc, 0xb6, 0xda, 0x21, 0x10, 0xff, 0xf3, 0xd2],
  #v[0xcd, 0x0c, 0x13, 0xec, 0x5f, 0x97, 0x44, 0x17, 0xc4, 0xa7, 0x7e, 0x3d, 0x64, 0x5d, 0x19, 0x73],
  #v[0x60, 0x81, 0x4f, 0xdc, 0x22, 0x2a, 0x90, 0x88, 0x46, 0xee, 0xb8, 0x14, 0xde, 0x5e, 0x0b, 0xdb],
  #v[0xe0, 0x32, 0x3a, 0x0a, 0x49, 0x06, 0x24, 0x5c, 0xc2, 0xd3, 0xac, 0x62, 0x91, 0x95, 0xe4, 0x79],
  #v[0xe7, 0xc8, 0x37, 0x6d, 0x8d, 0xd5, 0x4e, 0xa9, 0x6c, 0x56, 0xf4, 0xea, 0x65, 0x7a, 0xae, 0x08],
  #v[0xba, 0x78, 0x25, 0x2e, 0x1c, 0xa6, 0xb4, 0xc6, 0xe8, 0xdd, 0x74, 0x1f, 0x4b, 0xbd, 0x8b, 0x8a],
  #v[0x70, 0x3e, 0xb5, 0x66, 0x48, 0x03, 0xf6, 0x0e, 0x61, 0x35, 0x57, 0xb9, 0x86, 0xc1, 0x1d, 0x9e],
  #v[0xe1, 0xf8, 0x98, 0x11, 0x69, 0xd9, 0x8e, 0x94, 0x9b, 0x1e, 0x87, 0xe9, 0xce, 0x55, 0x28, 0xdf],
  #v[0x8c, 0xa1, 0x89, 0x0d, 0xbf, 0xe6, 0x42, 0x68, 0x41, 0x99, 0x2d, 0x0f, 0xb0, 0x54, 0xbb, 0x16]]

/-- R105: row `b[7:4]`, column `b[3:0]`. PRESUMED, unsafe, log entry 11. -/
def invSboxTable : Vector (Vector Byte 16) 16 := #v[
  #v[0x52, 0x09, 0x6a, 0xd5, 0x30, 0x36, 0xa5, 0x38, 0xbf, 0x40, 0xa3, 0x9e, 0x81, 0xf3, 0xd7, 0xfb],
  #v[0x7c, 0xe3, 0x39, 0x82, 0x9b, 0x2f, 0xff, 0x87, 0x34, 0x8e, 0x43, 0x44, 0xc4, 0xde, 0xe9, 0xcb],
  #v[0x54, 0x7b, 0x94, 0x32, 0xa6, 0xc2, 0x23, 0x3d, 0xee, 0x4c, 0x95, 0x0b, 0x42, 0xfa, 0xc3, 0x4e],
  #v[0x08, 0x2e, 0xa1, 0x66, 0x28, 0xd9, 0x24, 0xb2, 0x76, 0x5b, 0xa2, 0x49, 0x6d, 0x8b, 0xd1, 0x25],
  #v[0x72, 0xf8, 0xf6, 0x64, 0x86, 0x68, 0x98, 0x16, 0xd4, 0xa4, 0x5c, 0xcc, 0x5d, 0x65, 0xb6, 0x92],
  #v[0x6c, 0x70, 0x48, 0x50, 0xfd, 0xed, 0xb9, 0xda, 0x5e, 0x15, 0x46, 0x57, 0xa7, 0x8d, 0x9d, 0x84],
  #v[0x90, 0xd8, 0xab, 0x00, 0x8c, 0xbc, 0xd3, 0x0a, 0xf7, 0xe4, 0x58, 0x05, 0xb8, 0xb3, 0x45, 0x06],
  #v[0xd0, 0x2c, 0x1e, 0x8f, 0xca, 0x3f, 0x0f, 0x02, 0xc1, 0xaf, 0xbd, 0x03, 0x01, 0x13, 0x8a, 0x6b],
  #v[0x3a, 0x91, 0x11, 0x41, 0x4f, 0x67, 0xdc, 0xea, 0x97, 0xf2, 0xcf, 0xce, 0xf0, 0xb4, 0xe6, 0x73],
  #v[0x96, 0xac, 0x74, 0x22, 0xe7, 0xad, 0x35, 0x85, 0xe2, 0xf9, 0x37, 0xe8, 0x1c, 0x75, 0xdf, 0x6e],
  #v[0x47, 0xf1, 0x1a, 0x71, 0x1d, 0x29, 0xc5, 0x89, 0x6f, 0xb7, 0x62, 0x0e, 0xaa, 0x18, 0xbe, 0x1b],
  #v[0xfc, 0x56, 0x3e, 0x4b, 0xc6, 0xd2, 0x79, 0x20, 0x9a, 0xdb, 0xc0, 0xfe, 0x78, 0xcd, 0x5a, 0xf4],
  #v[0x1f, 0xdd, 0xa8, 0x33, 0x88, 0x07, 0xc7, 0x31, 0xb1, 0x12, 0x10, 0x59, 0x27, 0x80, 0xec, 0x5f],
  #v[0x60, 0x51, 0x7f, 0xa9, 0x19, 0xb5, 0x4a, 0x0d, 0x2d, 0xe5, 0x7a, 0x9f, 0x93, 0xc9, 0x9c, 0xef],
  #v[0xa0, 0xe0, 0x3b, 0x4d, 0xae, 0x2a, 0xf5, 0xb0, 0xc8, 0xeb, 0xbb, 0x3c, 0x83, 0x53, 0x99, 0x61],
  #v[0x17, 0x2b, 0x04, 0x7e, 0xba, 0x77, 0xd6, 0x26, 0xe1, 0x69, 0x14, 0x63, 0x55, 0x21, 0x0c, 0x7d]]

/-- R40: the entry of a 16 x 16 table for a byte: the row of its high nibble, the column of its low nibble. -/
def tableEntry (t : Vector (Vector Byte 16) 16) (b : Byte) : Byte :=
  (t[b.toNat / 16]'(by have := b.isLt; omega))[b.toNat % 16]'(by omega)

/-- R104: `SBOX[b]`. -/
def sboxEntry (b : Byte) : Byte := tableEntry sboxTable b

/-- R105: `INVSBOX[b]`. -/
def invSboxEntry (b : Byte) : Byte := tableEntry invSboxTable b

/-- R109: the unit `aes_sbox`, with inputs `b` and `inv`. -/
def aesSbox (b : Byte) (inv : Bool) : Byte := if inv then invSboxEntry b else sboxEntry b

end Sys2Proof.Machine
end

