-- ==== Sys2Proof/Machine/Operands.lean ====
section
/-! DEFINITION. The operand forms of AES-CORE: the byte vectors taken from `CDATA` and padded into `RDATA`
(30_encoding.md R64, R71), the key-size code and its parameters (00_scope.md R7), a word as a number (20_memory.md R42)
and the 256-bit bus (R48). -/

set_option autoImplicit false

namespace Sys2Proof

/-- R64: `CDATA[0..n-1]`, for an operand of at most 32 bytes. -/
def takeBytes (n : Nat) (d : Bytes32) : Vector Byte n :=
  Vector.ofFn fun i : Fin n => if h : i.val < 32 then d[i.val] else 0

/-- R11: `pad32(v)` is the byte sequence `v` followed by zero bytes up to 32 bytes. -/
def pad32 {n : Nat} (v : Vector Byte n) : Bytes32 :=
  Vector.ofFn fun k : Fin 32 => if h : k.val < n then v[k.val] else 0

/-- R7: the 2-bit code `KSZ` of a key size. -/
def KeySize.code : KeySize → BitVec 2
  | .aes128 => 0b00
  | .aes192 => 0b01
  | .aes256 => 0b10

/-- R7: the key size of a code; 0b11 is reserved and is none. -/
def KeySize.ofCode? (c : BitVec 2) : Option KeySize :=
  if c = 0b00 then some .aes128
  else if c = 0b01 then some .aes192
  else if c = 0b10 then some .aes256
  else none

/-- R7: `Nk`, the key length in 4-byte words. -/
def KeySize.nk : KeySize → Nat
  | .aes128 => 4
  | .aes192 => 6
  | .aes256 => 8

/-- R7: `Nr`, the number of rounds. -/
def KeySize.nr : KeySize → Nat
  | .aes128 => 10
  | .aes192 => 12
  | .aes256 => 14

/-- R7: the number of words of the schedule, `L = 4·(Nr+1)`. -/
def KeySize.schedLen (z : KeySize) : Nat := 4 * (z.nr + 1)

/-- R7: no key size has more than 14 rounds, so a round index fits 0..14. -/
theorem KeySize.nr_lt (z : KeySize) : z.nr < 15 := by cases z <;> decide

/-- R42: a word as a 32-bit number; `w.0` is bits 31:24, `w.3` bits 7:0. -/
def wordNumber (w : Word) : BitVec 32 := w[0] ++ w[1] ++ w[2] ++ w[3]

/-- R42: the word of a 32-bit number, first byte most significant. -/
def wordOfNumber (x : BitVec 32) : Word :=
  #v[x.extractLsb' 24 8, x.extractLsb' 16 8, x.extractLsb' 8 8, x.extractLsb' 0 8]

/-- R48: byte `k` of a 256-bit bus is bits `[255-8k : 248-8k]`. -/
def unpackBus (x : BitVec 256) : Bytes32 :=
  Vector.ofFn fun k : Fin 32 => x.extractLsb' (248 - 8 * k.val) 8

/-- R48: the bus that carries 32 bytes; byte 0 is the most significant. -/
def packBus (d : Bytes32) : BitVec 256 :=
  d.toList.foldl (fun acc b => (acc <<< 8) ||| b.setWidth 256) 0

end Sys2Proof
end

