-- ==== Sys2Proof/Machine/KeySchedule.lean ====
section
/-! DEFINITION. The key schedule (41_key_schedule.md): the round constants, the word functions, `KeyExpansion`, which
the unit `aes_key_expand` computes (R138), and the round keys. -/

set_option autoImplicit false

namespace Sys2Proof.Machine

/-- R131: `RCON`, ten words. Only their high bytes are ever read (93 I12). PRESUMED, unsafe, log entry 11. -/
def rconTable : Vector Word 10 := #v[
  #v[0x01, 0, 0, 0], #v[0x02, 0, 0, 0], #v[0x04, 0, 0, 0], #v[0x08, 0, 0, 0], #v[0x10, 0, 0, 0],
  #v[0x20, 0, 0, 0], #v[0x40, 0, 0, 0], #v[0x80, 0, 0, 0], #v[0x1b, 0, 0, 0], #v[0x36, 0, 0, 0]]

/-- R131: `RCON[j].0`. R135: every index that `KeyExpansion` reads is below 10 (DEDUCED, safe, log
entry 10). -/
def rconHigh (j : Nat) : Byte := if h : j < 10 then rconTable[j][0] else 0

/-- R132: each byte through `aes_sbox` with `inv = 0`. -/
def subWord (w : Word) : Word := w.map fun b => aesSbox b false

/-- R133: the first byte moves to the last place. -/
def rotWord (w : Word) : Word := #v[w[1], w[2], w[3], w[0]]

/-- R134: `temp` of step 2 for word `i`, from `W[i-1]`. The order of the first branch is rotate, substitute, XOR the
round constant's high byte into the first byte. R136: the substitution-only branch is AES-256's alone. -/
def scheduleTemp (z : KeySize) (i : Nat) (prev : Word) : Word :=
  if i % z.nk = 0 then
    let t := subWord (rotWord prev)
    #v[t[0] ^^^ rconHigh (i / z.nk - 1), t[1], t[2], t[3]]
  else if z.nk = 8 ∧ i % z.nk = 4 then subWord prev
  else prev

/-- R134: the next word `W[i] = W[i-Nk] ^ temp` after the words `W[0..i-1]`. There are at least `Nk` of them, so both
reads are in range (DEDUCED, safe, log entry 10). -/
def nextWord (z : KeySize) (ws : List Word) : Word :=
  xorWord (ws.getD (ws.length - z.nk) zeroWord) (scheduleTemp z ws.length (ws.getD (ws.length - 1) zeroWord))

/-- R134, step 2: `n` more words. -/
def expandWords (z : KeySize) : Nat → List Word → List Word
  | 0, ws => ws
  | n + 1, ws => expandWords z n (ws ++ [nextWord z ws])

/-- R45, R134 step 1: word `i` of the key is bytes `4i` to `4i+3`, for `i < Nk`. -/
def keyWord (kb : Bytes32) (i : Nat) : Word :=
  Vector.ofFn fun r : Fin 4 => if h : 4 * i + r.val < 32 then kb[4 * i + r.val] else 0

/-- R134, R138: `KeyExpansion(ksz, key)`; of the 32 key bytes the first `4·Nk` are used. -/
def keyExpansion (z : KeySize) (kb : Bytes32) : List Word :=
  expandWords z (z.schedLen - z.nk) ((List.range z.nk).map (keyWord kb))

/-- R138: the unit `aes_key_expand`. -/
def aesKeyExpand (z : KeySize) (kb : Bytes32) : List Word := keyExpansion z kb

/-- R205: `W` after its entries `0..L-1` are written; the entries beyond hold `rest`. -/
def storeSchedule (sched : List Word) (rest : Nat → Word) : ScheduleStore :=
  Vector.ofFn fun i : Fin 60 => (sched[i.val]?).getD (rest i.val)

/-- R139: `RoundKey(W, r)`, the words `4r` to `4r+3`. -/
def roundKey (w : ScheduleStore) (r : Fin 15) : RoundKey :=
  Vector.ofFn fun c : Fin 4 => w[4 * r.val + c.val]

end Sys2Proof.Machine
end

