-- ==== Sys2Proof/Machine/Transform.lean ====
section
/-! DEFINITION. The state matrix and its mapping to a block (43_cipher_block.md R200 to R202), the round operations and
the round units `aes_encrypt_round` and `aes_decrypt_round` (42_state_transform.md). -/

set_option autoImplicit false

namespace Sys2Proof.Machine

/-- R10, R28: `S[r][c]`, a 4 x 4 matrix of bytes by rows. It lives only inside one command. -/
structure StateMatrix where
  rows : Vector (Vector Byte 4) 4
deriving DecidableEq, Repr

/-- `s[r][c]`. -/
def StateMatrix.get (s : StateMatrix) (r c : Fin 4) : Byte := s.rows[r][c]

/-- The matrix with the given entries. -/
def StateMatrix.ofFn (f : Fin 4 → Fin 4 → Byte) : StateMatrix :=
  { rows := Vector.ofFn fun r => Vector.ofFn fun c => f r c }

/-- R201: `LoadState(b)[r][c] = b[r + 4c]`. -/
def loadState (b : Block) : StateMatrix := StateMatrix.ofFn fun r c => b[r.val + 4 * c.val]

/-- R202: `StoreState(s)[k] = s[k mod 4][k / 4]`. -/
def storeState (s : StateMatrix) : Block :=
  Vector.ofFn fun k : Fin 16 => s.get ⟨k.val % 4, by omega⟩ ⟨k.val / 4, by omega⟩

/-- R150. -/
def subBytes (s : StateMatrix) : StateMatrix := StateMatrix.ofFn fun r c => aesSbox (s.get r c) false

/-- R151. -/
def invSubBytes (s : StateMatrix) : StateMatrix := StateMatrix.ofFn fun r c => aesSbox (s.get r c) true

/-- R152: the column index is taken mod 4. -/
def shiftRows (s : StateMatrix) : StateMatrix :=
  StateMatrix.ofFn fun r c => s.get r ⟨(c.val + r.val) % 4, by omega⟩

/-- R153: the column index is taken mod 4. -/
def invShiftRows (s : StateMatrix) : StateMatrix :=
  StateMatrix.ofFn fun r c => s.get r ⟨(c.val + 4 - r.val) % 4, by omega⟩

/-- R154: column `c` as the vector `(s[0][c], s[1][c], s[2][c], s[3][c])`. -/
def StateMatrix.column (s : StateMatrix) (c : Fin 4) : Word := #v[s.get 0 c, s.get 1 c, s.get 2 c, s.get 3 c]

/-- The matrix whose columns are the images of the columns of `s`. -/
def StateMatrix.mapColumns (f : Word → Word) (s : StateMatrix) : StateMatrix :=
  StateMatrix.ofFn fun r c => (f (s.column c))[r]

/-- R154: the matrix of rows 2 3 1 1; 1 2 3 1; 1 1 2 3; 3 1 1 2 applied to one column. -/
def mixColumn (a : Word) : Word := #v[
  gfMulc a[0] .c2 ^^^ gfMulc a[1] .c3 ^^^ a[2] ^^^ a[3],
  a[0] ^^^ gfMulc a[1] .c2 ^^^ gfMulc a[2] .c3 ^^^ a[3],
  a[0] ^^^ a[1] ^^^ gfMulc a[2] .c2 ^^^ gfMulc a[3] .c3,
  gfMulc a[0] .c3 ^^^ a[1] ^^^ a[2] ^^^ gfMulc a[3] .c2]

/-- R155: the inverse matrix, each row the one above rotated right, applied to one column. -/
def invMixColumn (a : Word) : Word := #v[
  gfMulc a[0] .c14 ^^^ gfMulc a[1] .c11 ^^^ gfMulc a[2] .c13 ^^^ gfMulc a[3] .c9,
  gfMulc a[0] .c9 ^^^ gfMulc a[1] .c14 ^^^ gfMulc a[2] .c11 ^^^ gfMulc a[3] .c13,
  gfMulc a[0] .c13 ^^^ gfMulc a[1] .c9 ^^^ gfMulc a[2] .c14 ^^^ gfMulc a[3] .c11,
  gfMulc a[0] .c11 ^^^ gfMulc a[1] .c13 ^^^ gfMulc a[2] .c9 ^^^ gfMulc a[3] .c14]

/-- R154. -/
def mixColumns (s : StateMatrix) : StateMatrix := s.mapColumns mixColumn

/-- R155. -/
def invMixColumns (s : StateMatrix) : StateMatrix := s.mapColumns invMixColumn

/-- R156: byte `(r, c)` meets byte `r` of round-key word `c`. -/
def addRoundKey (s : StateMatrix) (k : RoundKey) : StateMatrix := StateMatrix.ofFn fun r c => s.get r c ^^^ k[c][r]

/-- R160: the unit `aes_encrypt_round`. -/
def aesEncryptRound (s : StateMatrix) (k : RoundKey) (final : Bool) : StateMatrix :=
  let t := shiftRows (subBytes s)
  let t := if final then t else mixColumns t
  addRoundKey t k

/-- R161: the unit `aes_decrypt_round`; InvMixColumns comes after AddRoundKey. -/
def aesDecryptRound (s : StateMatrix) (k : RoundKey) (final : Bool) : StateMatrix :=
  let t := addRoundKey (invSubBytes (invShiftRows s)) k
  if final then t else invMixColumns t

end Sys2Proof.Machine
end

