-- ==== Sys2Proof/Machine/Cipher.lean ====
section
/-! DEFINITION. The round driver of `aes_state_cipher_block` (43_cipher_block.md R208 to R217). It branches only on
`Nr` (R216). -/

set_option autoImplicit false

namespace Sys2Proof.Machine

/-- R209: round `Nr`, the last round key's index. -/
def lastRound (z : KeySize) : Fin 15 := ⟨z.nr, z.nr_lt⟩

/-- R208 step 3: the rounds `1 .. Nr-1` in rising order. -/
def middleRounds (z : KeySize) : List (Fin 15) := (List.finRange 15).filter fun r => 1 ≤ r.val ∧ r.val < z.nr

/-- R208: `Cipher(W, Nr, s)`. -/
def cipher (w : ScheduleStore) (z : KeySize) (s : StateMatrix) : StateMatrix :=
  let s := addRoundKey s (roundKey w 0)
  let s := (middleRounds z).foldl (fun s r => aesEncryptRound s (roundKey w r) false) s
  aesEncryptRound s (roundKey w (lastRound z)) true

/-- R211: `InvCipher(W, Nr, s)`; the rounds run from `Nr-1` down to 1. -/
def invCipher (w : ScheduleStore) (z : KeySize) (s : StateMatrix) : StateMatrix :=
  let s := addRoundKey s (roundKey w (lastRound z))
  let s := (middleRounds z).reverse.foldl (fun s r => aesDecryptRound s (roundKey w r) false) s
  aesDecryptRound s (roundKey w 0) true

/-- R210: the ciphertext of a block. -/
def encryptBlock (w : ScheduleStore) (z : KeySize) (b : Block) : Block := storeState (cipher w z (loadState b))

/-- R212: the plaintext of a block. -/
def decryptBlock (w : ScheduleStore) (z : KeySize) (b : Block) : Block := storeState (invCipher w z (loadState b))

end Sys2Proof.Machine
end

