-- ==== Sys2Proof/Config.lean ====
section
/-! DEFINITION. What an implementation of AES-CORE fixes (00_scope.md R8), and the free values: opaque constants
without a body, so that nothing can be proved about which value they are. That two draws with equal arguments are equal can be proved, and is
the model's choice (log entry 2). -/

set_option autoImplicit false

namespace Sys2Proof.Config

/-- R8: the implementation parameters that are plain data. `unitCmds` is `UNIT_CMDS`: whether the unit commands are
implemented. A State carries its parameters; no step writes them. -/
structure Params where
  unitCmds : Bool
deriving DecidableEq, Repr

/-- R8, decision D4: `UNIT_CMDS` is `true` by default. -/
def defaultParams : Params := { unitCmds := true }

/-- FREE VALUE (log entry 2): what the `d`-th draw leaves in schedule entry `i`, for the entries the spec calls
unspecified: `W[L..59]` after a LOAD_KEY (R26, R205) and all of `W` after a reset edge (R33, R270). -/
opaque freeScheduleWord : (d i : Nat) → Word

/-- FREE VALUE (log entry 2): the contents of `KEY` after the reset edge that makes draw `d` (R33, R270). -/
opaque freeKey : (d : Nat) → Bytes32

/-- FREE VALUE (log entry 2): the contents of `KSZ` after the reset edge that makes draw `d` (R33, R270). -/
opaque freeKsz : (d : Nat) → KeySize

/-- FREE VALUE (log entry 5): the cycles of `LATENCY` above the one that R8 and R281 require. Its arguments are what
R281 lets a latency depend on: the opcode, the key-size code, and whether the response is OK or an error. -/
opaque latencyExtra : (op : BitVec 5) → (ksz : BitVec 2) → (ok : Bool) → Nat

/-- R8, R281: `LATENCY(op, ksz)`, an integer of at least 1. -/
def latency (op : BitVec 5) (ksz : BitVec 2) (ok : Bool) : Nat := latencyExtra op ksz ok + 1

end Sys2Proof.Config
end

