-- ==== Sys2Proof/Syntax.lean ====
section
/-! DEFINITION. The commands of AES-CORE: the command record, the opcodes, and one constructor of `Instr` for each row
of spec/opcode_table.json, carrying exactly the operands that the row's rule reads (30_encoding.md R63, R64). -/

set_option autoImplicit false

namespace Sys2Proof

/-- R60, R68: a command is a 16-bit command word and a 32-byte data operand. -/
structure Command where
  cw    : BitVec 16
  cdata : Bytes32
deriving DecidableEq, Repr

/-- R65: the opcodes that are not illegal. -/
inductive Opcode where
  | loadKey | readKey | encrypt | decrypt | readSchedWord
  | sbox | invSbox | xtime
  | subBytes | invSubBytes | shiftRows | invShiftRows | mixColumns | invMixColumns
  | addRoundKey | encRound | decRound
deriving DecidableEq, Repr

/-- One constructor per row of spec/opcode_table.json. The bytes of `CDATA` that a command ignores (R71) are no part of
the instruction. -/
inductive Instr where
  /-- R205: `CDATA[0..15]` is the key. -/
  | loadKey128 (key : Vector Byte 16)
  /-- R205: `CDATA[0..23]` is the key. -/
  | loadKey192 (key : Vector Byte 24)
  /-- R205: `CDATA[0..31]` is the key. -/
  | loadKey256 (key : Bytes32)
  /-- R207. -/
  | readKey
  /-- R210: the plaintext block. -/
  | encrypt (blk : Block)
  /-- R212: the ciphertext block. -/
  | decrypt (blk : Block)
  /-- R140: `ARG` is the word index. -/
  | readSchedWord (i : Byte)
  /-- R110: `ARG` is the input byte. -/
  | sbox (b : Byte)
  /-- R111: `ARG` is the input byte. -/
  | invSbox (b : Byte)
  /-- R112: `ARG` is the input byte. -/
  | xtime (b : Byte)
  /-- R170: the input block. -/
  | subBytes (blk : Block)
  /-- R171: the input block. -/
  | invSubBytes (blk : Block)
  /-- R172: the input block. -/
  | shiftRows (blk : Block)
  /-- R173: the input block. -/
  | invShiftRows (blk : Block)
  /-- R174: the input block. -/
  | mixColumns (blk : Block)
  /-- R175: the input block. -/
  | invMixColumns (blk : Block)
  /-- R176: the round index and the input block. -/
  | addRoundKey (r : Byte) (blk : Block)
  /-- R177: the round index and the input block. -/
  | encRound (r : Byte) (blk : Block)
  /-- R178: the round index and the input block. -/
  | decRound (r : Byte) (blk : Block)
deriving DecidableEq, Repr

end Sys2Proof
end

