-- ==== Sys2Proof/WellFormed.lean ====
section
/-! DEFINITION. Which instructions exist on a core with given parameters. Operand widths and lengths are carried by the
types of `Instr`, so the one check left is R8's: a unit command exists only when `UNIT_CMDS` is true. -/

set_option autoImplicit false

namespace Sys2Proof

/-- R8, R65: the unit commands, opcodes 0x05, 0x08-0x0A and 0x10-0x19. -/
def Instr.isUnit : Instr → Bool
  | .loadKey128 _ => false
  | .loadKey192 _ => false
  | .loadKey256 _ => false
  | .readKey => false
  | .encrypt _ => false
  | .decrypt _ => false
  | .readSchedWord _ => true
  | .sbox _ => true
  | .invSbox _ => true
  | .xtime _ => true
  | .subBytes _ => true
  | .invSubBytes _ => true
  | .shiftRows _ => true
  | .invShiftRows _ => true
  | .mixColumns _ => true
  | .invMixColumns _ => true
  | .addRoundKey _ _ => true
  | .encRound _ _ => true
  | .decRound _ _ => true

/-- An instruction is well formed on a core when the core implements it (R8, R67(e)). -/
def Instr.wellFormed (p : Config.Params) (i : Instr) : Bool := !i.isUnit || p.unitCmds

end Sys2Proof
end

