-- ==== Sys2Proof/Decode.lean ====
section
/-! DEFINITION. Decode (30_encoding.md R61 to R67): the fields of the command word, the opcode map, the total decoder,
and the encoder written from the same tables. -/

set_option autoImplicit false

namespace Sys2Proof

/-- R61: `CW[4:0]`. -/
def opField (cw : BitVec 16) : BitVec 5 := cw.extractLsb' 0 5

/-- R61: `CW[6:5]`. -/
def kszField (cw : BitVec 16) : BitVec 2 := cw.extractLsb' 5 2

/-- R61: `CW[7]`, reserved. -/
def rsvField (cw : BitVec 16) : BitVec 1 := cw.extractLsb' 7 1

/-- R61: `CW[15:8]`. -/
def argField (cw : BitVec 16) : BitVec 8 := cw.extractLsb' 8 8

/-- R65: the opcode map. -/
def Opcode.code : Opcode → BitVec 5
  | .loadKey => 0x01
  | .readKey => 0x02
  | .encrypt => 0x03
  | .decrypt => 0x04
  | .readSchedWord => 0x05
  | .sbox => 0x08
  | .invSbox => 0x09
  | .xtime => 0x0A
  | .subBytes => 0x10
  | .invSubBytes => 0x11
  | .shiftRows => 0x12
  | .invShiftRows => 0x13
  | .mixColumns => 0x14
  | .invMixColumns => 0x15
  | .addRoundKey => 0x16
  | .encRound => 0x18
  | .decRound => 0x19

/-- R65: the opcode of a 5-bit code; the codes the table marks illegal have none. -/
def Opcode.ofCode? (c : BitVec 5) : Option Opcode :=
  match c.toNat with
  | 0x01 => some .loadKey
  | 0x02 => some .readKey
  | 0x03 => some .encrypt
  | 0x04 => some .decrypt
  | 0x05 => some .readSchedWord
  | 0x08 => some .sbox
  | 0x09 => some .invSbox
  | 0x0A => some .xtime
  | 0x10 => some .subBytes
  | 0x11 => some .invSubBytes
  | 0x12 => some .shiftRows
  | 0x13 => some .invShiftRows
  | 0x14 => some .mixColumns
  | 0x15 => some .invMixColumns
  | 0x16 => some .addRoundKey
  | 0x18 => some .encRound
  | 0x19 => some .decRound
  | _ => none

/-- R62: the opcodes that read `ARG`. -/
def Opcode.takesArg : Opcode → Bool
  | .readSchedWord | .sbox | .invSbox | .xtime | .addRoundKey | .encRound | .decRound => true
  | .loadKey | .readKey | .encrypt | .decrypt => false
  | .subBytes | .invSubBytes | .shiftRows | .invShiftRows | .mixColumns | .invMixColumns => false

/-- R65: the opcodes of the unit group. -/
def Opcode.isUnit : Opcode → Bool
  | .loadKey | .readKey | .encrypt | .decrypt => false
  | .readSchedWord | .sbox | .invSbox | .xtime => true
  | .subBytes | .invSubBytes | .shiftRows | .invShiftRows | .mixColumns | .invMixColumns => true
  | .addRoundKey | .encRound | .decRound => true

/-- R66: what a command word decodes to. `Cmd(op, ksz, arg)` carries the key size of a LOAD_KEY; where the rule
writes `ksz = 0` it carries AES-128, whose code is 0, and nothing reads it. -/
inductive WordDecode where
  | cmd (op : Opcode) (ksz : KeySize) (arg : Byte)
  | illegal
  | badKeySize
deriving DecidableEq, Repr

/-- R66: `Decode`, total on every 16-bit word. -/
def decodeWord (p : Config.Params) (cw : BitVec 16) : WordDecode :=
  if rsvField cw ≠ 0 then .illegal
  else match Opcode.ofCode? (opField cw) with
    | none => .illegal
    | some .loadKey =>
      if argField cw ≠ 0 then .illegal
      else match KeySize.ofCode? (kszField cw) with
        | none => .badKeySize
        | some z => .cmd .loadKey z 0
    | some op =>
      if op.isUnit && !p.unitCmds then .illegal
      else if kszField cw ≠ 0 then .illegal
      else if op.takesArg then .cmd op .aes128 (argField cw)
      else if argField cw ≠ 0 then .illegal
      else .cmd op .aes128 0

/-- R63, R64: the instruction of a decoded word with its data operand: `ARG` as it stands, and the bytes of `CDATA` the
command reads. -/
def bindOperands (op : Opcode) (z : KeySize) (arg : Byte) (d : Bytes32) : Instr :=
  match op with
  | .loadKey =>
    match z with
    | .aes128 => .loadKey128 (takeBytes 16 d)
    | .aes192 => .loadKey192 (takeBytes 24 d)
    | .aes256 => .loadKey256 d
  | .readKey => .readKey
  | .encrypt => .encrypt (takeBytes 16 d)
  | .decrypt => .decrypt (takeBytes 16 d)
  | .readSchedWord => .readSchedWord arg
  | .sbox => .sbox arg
  | .invSbox => .invSbox arg
  | .xtime => .xtime arg
  | .subBytes => .subBytes (takeBytes 16 d)
  | .invSubBytes => .invSubBytes (takeBytes 16 d)
  | .shiftRows => .shiftRows (takeBytes 16 d)
  | .invShiftRows => .invShiftRows (takeBytes 16 d)
  | .mixColumns => .mixColumns (takeBytes 16 d)
  | .invMixColumns => .invMixColumns (takeBytes 16 d)
  | .addRoundKey => .addRoundKey arg (takeBytes 16 d)
  | .encRound => .encRound arg (takeBytes 16 d)
  | .decRound => .decRound arg (takeBytes 16 d)

/-- What a whole command decodes to: an instruction, or one of R66's two rejections, by name. -/
inductive Decoded where
  | cmd (i : Instr)
  | illegal
  | badKeySize
deriving DecidableEq, Repr

/-- R66 with R63 and R64: the decoder of a command. -/
def decode (p : Config.Params) (c : Command) : Decoded :=
  match decodeWord p c.cw with
  | .cmd op z arg => .cmd (bindOperands op z arg c.cdata)
  | .illegal => .illegal
  | .badKeySize => .badKeySize

/-! The encoder. -/

/-- R65: the opcode of an instruction. -/
def Instr.opcode : Instr → Opcode
  | .loadKey128 _ => .loadKey
  | .loadKey192 _ => .loadKey
  | .loadKey256 _ => .loadKey
  | .readKey => .readKey
  | .encrypt _ => .encrypt
  | .decrypt _ => .decrypt
  | .readSchedWord _ => .readSchedWord
  | .sbox _ => .sbox
  | .invSbox _ => .invSbox
  | .xtime _ => .xtime
  | .subBytes _ => .subBytes
  | .invSubBytes _ => .invSubBytes
  | .shiftRows _ => .shiftRows
  | .invShiftRows _ => .invShiftRows
  | .mixColumns _ => .mixColumns
  | .invMixColumns _ => .invMixColumns
  | .addRoundKey _ _ => .addRoundKey
  | .encRound _ _ => .encRound
  | .decRound _ _ => .decRound

/-- R61, R205: the `KSZ` field; zero for every opcode but LOAD_KEY. -/
def Instr.kszBits : Instr → BitVec 2
  | .loadKey192 _ => 0b01
  | .loadKey256 _ => 0b10
  | .loadKey128 _ | .readKey | .encrypt _ | .decrypt _ => 0b00
  | .readSchedWord _ | .sbox _ | .invSbox _ | .xtime _ => 0b00
  | .subBytes _ | .invSubBytes _ | .shiftRows _ | .invShiftRows _ | .mixColumns _ | .invMixColumns _ => 0b00
  | .addRoundKey _ _ | .encRound _ _ | .decRound _ _ => 0b00

/-- R61, R62: the `ARG` field; zero for the opcodes that take no argument. -/
def Instr.argBits : Instr → Byte
  | .readSchedWord i => i
  | .sbox b | .invSbox b | .xtime b => b
  | .addRoundKey r _ | .encRound r _ | .decRound r _ => r
  | .loadKey128 _ | .loadKey192 _ | .loadKey256 _ | .readKey | .encrypt _ | .decrypt _ => 0
  | .subBytes _ | .invSubBytes _ | .shiftRows _ | .invShiftRows _ | .mixColumns _ | .invMixColumns _ => 0

/-- R64, R73: the data operand, padded with zero bytes. -/
def Instr.dataOperand : Instr → Bytes32
  | .loadKey128 k => pad32 k
  | .loadKey192 k => pad32 k
  | .loadKey256 k => k
  | .encrypt b | .decrypt b => pad32 b
  | .subBytes b | .invSubBytes b | .shiftRows b | .invShiftRows b | .mixColumns b | .invMixColumns b => pad32 b
  | .addRoundKey _ b | .encRound _ b | .decRound _ b => pad32 b
  | .readKey | .readSchedWord _ | .sbox _ | .invSbox _ | .xtime _ => zero32

/-- R61: `CW = ARG·256 + RSV·128 + KSZ·32 + OP`, with `RSV = 0`. -/
def packWord (op : BitVec 5) (ksz : BitVec 2) (arg : Byte) : BitVec 16 := arg ++ (0 : BitVec 1) ++ ksz ++ op

/-- The command that stands for an instruction. -/
def encode (i : Instr) : Command :=
  { cw := packWord i.opcode.code i.kszBits i.argBits, cdata := i.dataOperand }

/-- R64: how many bytes of `CDATA` an instruction reads, from byte 0. -/
def Instr.operandBytes : Instr → Nat
  | .loadKey128 _ => 16
  | .loadKey192 _ => 24
  | .loadKey256 _ => 32
  | .encrypt _ | .decrypt _ => 16
  | .subBytes _ | .invSubBytes _ | .shiftRows _ | .invShiftRows _ | .mixColumns _ | .invMixColumns _ => 16
  | .addRoundKey _ _ | .encRound _ _ | .decRound _ _ => 16
  | .readKey | .readSchedWord _ | .sbox _ | .invSbox _ | .xtime _ => 0

/-! The command as one number, for the host's questions about table words. -/

/-- The command whose bits are the low `nbits` bits of `w`, every bit above zero: `CW` is bits 15..0 and byte `k` of
`CDATA` the eight bits from `16 + 8k` on (DESIGN CHOICE, safe, log entry 9). -/
def commandOfBits (nbits w : Nat) : Command :=
  { cw := BitVec.ofNat 16 (w % 2 ^ nbits)
    cdata := Vector.ofFn fun k : Fin 32 => BitVec.ofNat 8 ((w % 2 ^ nbits) / 2 ^ (16 + 8 * k.val)) }

/-- The instruction the decoder reads from a table word, on a core with the default parameters. -/
def decodeTableWord (nbits w : Nat) : Option Instr :=
  match decode Config.defaultParams (commandOfBits nbits w) with
  | .cmd i => some i
  | .illegal => none
  | .badKeySize => none

end Sys2Proof
end

