-- ==== Sys2Proof/Machine/State.lean ====
section
/-! DEFINITION. The state of AES-CORE as plain data (10_state.md R22, R29, R34), the response record (30_encoding.md
R69), the reasons a step can stop, and the state after reset. -/

set_option autoImplicit false

namespace Sys2Proof.Machine

/-- R240: the five values of `STATUS`; no response carries another (93 I10). -/
inductive Status where
  | ok
  | illegal
  | keySize
  | noKey
  | range
deriving DecidableEq, Repr

/-- R69: the response record. -/
structure Response where
  status : Status
  rksz   : BitVec 2
  rdata  : Bytes32
deriving DecidableEq, Repr

/-- R278: the phase. BUSY holds the command sampled at acceptance (R279) and the cycles left of its latency (R281).
RESPOND holds the response that the core keeps on its pins until it is taken (R279). -/
inductive Phase where
  | idle
  | busy (cmd : Command) (left : Nat)
  | respond (r : Response)
deriving DecidableEq, Repr

/-- R287: a run of the host's program that a reset closed: the responses taken in it, the command then in flight, which
has no response (R271), and whether the run had ended before the reset. -/
structure PastRun where
  responses : List Response
  inFlight  : Option Command
  ended     : Bool
deriving DecidableEq, Repr

/-- The registers whose contents are unspecified while `KEY_VALID` is 0 (R33). -/
inductive UnspecifiedReg where
  | key
  | ksz
  | w
deriving DecidableEq, Repr

/-- R259: the model's own inconsistencies. The core has no behaviour that the spec leaves undefined (R258), so these
are the only faults, and no state reaches them: every reader checks first. -/
inductive Fault where
  /-- Raised by the register readers of Machine/Ops.lean on a read while `KEY_VALID` is 0 (R33, R259). Safe: the model
  stops where the spec says a model bug shows. -/
  | unspecifiedRead (r : UnspecifiedReg)
  /-- Raised by the schedule readers of Machine/Ops.lean on an index at or beyond `4·(Nr+1)` (R26, R259). Safe. -/
  | scheduleOutOfRange (i : Nat)
deriving DecidableEq, Repr

/-- The reasons an instruction can have no meaning. -/
inductive Refusal where
  /-- Raised by a refused arm of `exec`, for an instruction that has no meaning yet. Safe. No arm is refused. -/
  | notModelled (mnemonic : String)
deriving DecidableEq, Repr

/-- The machine: the core's four registers, its phase, its parameters, and the host's side of the ports. -/
structure State where
  /-- R8: the implementation parameters; no step writes them. -/
  params    : Config.Params
  /-- R22, R23: `KEY[0..31]`. -/
  key       : Bytes32
  /-- R22, R24: `KSZ`. -/
  ksz       : KeySize
  /-- R22, R25: `KEY_VALID`. -/
  keyValid  : Bool
  /-- R22, R26, R41: `W[0..59]`. -/
  w         : ScheduleStore
  /-- R29, R278. -/
  phase     : Phase
  /-- R79: the commands of the host's program whose response has not been taken: `P[p]`, `P[p+1]`, ... -/
  pending   : List Command
  /-- R79, R287: the responses taken in this run, oldest first; the host's index `p` is their number. -/
  responses : List Response
  /-- R287: the runs that a reset closed, oldest first. -/
  pastRuns  : List PastRun
  /-- The model's own counter (log entry 2): how often unspecified contents have been drawn. -/
  draws     : Nat
deriving DecidableEq, Repr

/-- R34: the core's state as the spec summarises it, in which an unspecified register holds no value. -/
structure CoreView where
  key      : Option Bytes32
  ksz      : Option KeySize
  keyValid : Bool
  w        : Option ScheduleStore
deriving DecidableEq, Repr

/-- R33, R34: `KEY`, `KSZ` and `W` show a value exactly while `KEY_VALID` is 1; a LOAD_KEY writes all four together. -/
def State.coreView (s : State) : CoreView :=
  if s.keyValid then { key := some s.key, ksz := some s.ksz, keyValid := true, w := some s.w }
  else { key := none, ksz := none, keyValid := false, w := none }

/-- R270, R273: right after reset. `KEY_VALID` is 0, the phase is IDLE, the core waits for the host's first command.
DESIGN CHOICE, unsafe (log entry 1): the zero contents of `KEY`, `KSZ` and `W`, which the spec leaves unspecified. -/
def State.reset : State :=
  { params := Config.defaultParams
    key := zero32
    ksz := .aes128
    keyValid := false
    w := Vector.replicate 60 zeroWord
    phase := .idle
    pending := []
    responses := []
    pastRuns := []
    draws := 0 }

end Sys2Proof.Machine
end

