-- ==== Sys2Proof/Machine/Flags.lean ====
section
/-! DEFINITION. The core has no status flags and no condition codes (10_state.md R31): its only status indication is
the STATUS of a response. This file computes it (60_exceptions.md R240, R242, R245). -/

set_option autoImplicit false

namespace Sys2Proof.Machine

/-- R240: the 8-bit value of a status. -/
def Status.code : Status → BitVec 8
  | .ok => 0x00
  | .illegal => 0x01
  | .keySize => 0x02
  | .noKey => 0x03
  | .range => 0x04

/-- R242: the set `KEYED`. -/
def keyedOp : Opcode → Bool
  | .readKey | .encrypt | .decrypt | .readSchedWord | .addRoundKey | .encRound | .decRound => true
  | .loadKey | .sbox | .invSbox | .xtime => false
  | .subBytes | .invSubBytes | .shiftRows | .invShiftRows | .mixColumns | .invMixColumns => false

/-- R242: `InRange(op, arg, Nr)`, the argument zero-extended (R63); an opcode outside `INDEXED` has no range. -/
def inRange (op : Opcode) (arg : Byte) (z : KeySize) : Bool :=
  match op with
  | .readSchedWord => arg.toNat ≤ 4 * (z.nr + 1) - 1
  | .addRoundKey => arg.toNat ≤ z.nr
  | .encRound => 1 ≤ arg.toNat ∧ arg.toNat ≤ z.nr
  | .decRound => arg.toNat ≤ z.nr - 1
  | .loadKey | .readKey | .encrypt | .decrypt | .sbox | .invSbox | .xtime => true
  | .subBytes | .invSubBytes | .shiftRows | .invShiftRows | .mixColumns | .invMixColumns => true

/-- R242: the status of `Check(core, d)`, in its order; `active` is the key size of the active key, none while
`KEY_VALID` is 0. It reads no data operand. -/
def checkStatus (d : WordDecode) (active : Option KeySize) : Status :=
  match d with
  | .illegal => .illegal
  | .badKeySize => .keySize
  | .cmd op _ arg =>
    if keyedOp op then
      match active with
      | none => .noKey
      | some z => if inRange op arg z then .ok else .range
    else .ok

/-- R24, R25: the key size of the active key. -/
def State.activeSize (s : State) : Option KeySize := if s.keyValid then some s.ksz else none

end Sys2Proof.Machine
end

