-- ==== Sys2Proof/Machine/Ops.lean ====
section
/-! DEFINITION. The named operations over the state: the response and the error response (the core's only form of
exception, 60_exceptions.md R243, R247; there is no return from one), the guarded register reads, the checks of a keyed
and of an indexed command (R242), the key load (43_cipher_block.md R205), the taking of a response, and reset (70 R270). -/

set_option autoImplicit false

namespace Sys2Proof.Machine

/-- What a command ends with. -/
abbrev Result := Host.Outcome State Fault Refusal

/-- Go on from a next state; a stop stays. -/
def andThen (o : Result) (f : State → Result) : Result :=
  match o with
  | .next s => f s
  | .fault r => .fault r
  | .refused r => .refused r

/-- R278: the response is offered; nothing else changes. -/
def State.offer (s : State) (r : Response) : State := { s with phase := .respond r }

/-- R205: all four registers are written together (R50). `W[0..L-1]` is the schedule, `W[L..59]` a free value (log
entry 2), which advances the model's draw counter. DESIGN CHOICE, unsafe (log entry 2): the draw is indexed by the counter
alone, so two instances with equal counters draw equal contents, which R26 and R256 leave open for each. -/
def State.installKey (s : State) (z : KeySize) (kb : Bytes32) : State :=
  { s with
    key := kb
    ksz := z
    keyValid := true
    w := storeSchedule (aesKeyExpand z kb) (Config.freeScheduleWord s.draws)
    draws := s.draws + 1 }

/-- R79, R278, R279: the offered response is taken. The phase is IDLE again, the host holds one more response and moves
to the next command of its program. -/
def State.takeResponse (s : State) (r : Response) : State :=
  { s with phase := .idle, pending := s.pending.tail, responses := s.responses ++ [r] }

/-- R270, R271: a reset edge. `KEY_VALID` is 0, the phase IDLE; a command in flight or a waiting response is dropped.
`KEY`, `KSZ` and `W` are unspecified: free values, indexed as in `installKey` (log entry 2). The host's side is the host's own (log entry 6). -/
def State.resetCore (s : State) : State :=
  { s with
    key := Config.freeKey s.draws
    ksz := Config.freeKsz s.draws
    keyValid := false
    w := Vector.ofFn fun i : Fin 60 => Config.freeScheduleWord s.draws i.val
    phase := .idle
    draws := s.draws + 1 }

/-- R11, R70: `respond(status, rksz, rdata)` ends the command. -/
def respond (st : Status) (rksz : BitVec 2) (rdata : Bytes32) (s : State) : Result :=
  .next (s.offer { status := st, rksz := rksz, rdata := rdata })

/-- R11, R243: `raise E_X` responds with `Response{E_X, 0, zero32}` and writes no state. -/
def raise (e : Status) (s : State) : Result := respond e 0 zero32 s

/-- R71: `respond(OK, 0, pad32(v))`. -/
def respondBytes {n : Nat} (v : Vector Byte n) (s : State) : Result := respond .ok 0 (pad32 v) s

/-- R33, R259: a read of `KEY`. -/
def readKeyReg (s : State) (k : Bytes32 → Result) : Result :=
  if s.keyValid then k s.key else .fault (.unspecifiedRead .key)

/-- R33, R259: a read of `KSZ`. -/
def readKszReg (s : State) (k : KeySize → Result) : Result :=
  if s.keyValid then k s.ksz else .fault (.unspecifiedRead .ksz)

/-- R33, R259: a read of the store `W` by the round driver, whose indices are within the schedule (R210). -/
def readSchedule (s : State) (k : ScheduleStore → Result) : Result :=
  if s.keyValid then k s.w else .fault (.unspecifiedRead .w)

/-- R140, R259: a read of `W[i]` under key size `z`. -/
def readScheduleWord (z : KeySize) (i : Nat) (s : State) (k : Word → Result) : Result :=
  readSchedule s fun w =>
    if h : i < 60 ∧ i < z.schedLen then k (w[i]'h.1) else .fault (.scheduleOutOfRange i)

/-- R139, R259: a read of `RoundKey(W, r)` under key size `z`. -/
def readRoundKey (z : KeySize) (r : Nat) (s : State) (k : RoundKey → Result) : Result :=
  readSchedule s fun w =>
    if h : r ≤ z.nr then k (roundKey w ⟨r, Nat.lt_of_le_of_lt h z.nr_lt⟩) else .fault (.scheduleOutOfRange (4 * r))

/-- R242, R244: a keyed command fails with E_NO_KEY while `KEY_VALID` is 0; otherwise it reads `KSZ`. -/
def keyed (s : State) (k : KeySize → Result) : Result :=
  if s.keyValid then readKszReg s k else raise .noKey s

/-- R242, R245: an indexed command checks the key, then its index. -/
def indexed (op : Opcode) (arg : Byte) (s : State) (k : KeySize → Result) : Result :=
  keyed s fun z => if inRange op arg z then k z else raise .range s

/-- R205: load a key given as the 32 bytes of `KEY`, and answer OK with no data. -/
def loadKey (z : KeySize) (kb : Bytes32) (s : State) : Result := respond .ok 0 zero32 (s.installKey z kb)

/-- R64, R170 to R175: load the input block, transform it, store it to `RDATA[0..15]`. -/
def respondTransform (f : StateMatrix → StateMatrix) (blk : Block) (s : State) : Result :=
  respondBytes (storeState (f (loadState blk))) s

end Sys2Proof.Machine
end

