-- ==== Sys2Proof/Machine/Facade.lean ====
section
/-! DEFINITION. The facade commands (43_cipher_block.md R205 to R212). -/

set_option autoImplicit false

namespace Sys2Proof.Machine

/-- R205. -/
def execLoadKey128 (key : Vector Byte 16) (s : State) : Result := loadKey .aes128 (pad32 key) s

/-- R205. -/
def execLoadKey192 (key : Vector Byte 24) (s : State) : Result := loadKey .aes192 (pad32 key) s

/-- R205. -/
def execLoadKey256 (key : Bytes32) (s : State) : Result := loadKey .aes256 key s

/-- R207: the one response whose `RKSZ` is the key-size code (R69). -/
def execReadKey (s : State) : Result := keyed s fun z => readKeyReg s fun kb => respond .ok z.code kb s

/-- R210. -/
def execEncrypt (blk : Block) (s : State) : Result :=
  keyed s fun z => readSchedule s fun w => respondBytes (encryptBlock w z blk) s

/-- R212. -/
def execDecrypt (blk : Block) (s : State) : Result :=
  keyed s fun z => readSchedule s fun w => respondBytes (decryptBlock w z blk) s

end Sys2Proof.Machine
end

