-- ==== Sys2Proof/Machine/FieldCommands.lean ====
section
/-! DEFINITION. The unit commands of the field primitives (40_field_primitives.md R110 to R112). They need no key. -/

set_option autoImplicit false

namespace Sys2Proof.Machine

/-- R110. -/
def execSbox (b : Byte) (s : State) : Result := respondBytes #v[aesSbox b false] s

/-- R111. -/
def execInvSbox (b : Byte) (s : State) : Result := respondBytes #v[aesSbox b true] s

/-- R112. -/
def execXtime (b : Byte) (s : State) : Result := respondBytes #v[gfXtime b] s

end Sys2Proof.Machine
end

