-- ==== Sys2Proof/Machine/RoundCommands.lean ====
section
/-! DEFINITION. The round-key unit commands (42_state_transform.md R166 to R168, R176 to R178). -/

set_option autoImplicit false

namespace Sys2Proof.Machine

/-- R166, R176. -/
def execAddRoundKey (r : Byte) (blk : Block) (s : State) : Result :=
  indexed .addRoundKey r s fun z => readRoundKey z r.toNat s fun k =>
    respondTransform (fun m => addRoundKey m k) blk s

/-- R167, R177: final exactly when `r = Nr`. -/
def execEncRound (r : Byte) (blk : Block) (s : State) : Result :=
  indexed .encRound r s fun z => readRoundKey z r.toNat s fun k =>
    respondTransform (fun m => aesEncryptRound m k (r.toNat == z.nr)) blk s

/-- R168, R178: final exactly when `r = 0`. -/
def execDecRound (r : Byte) (blk : Block) (s : State) : Result :=
  indexed .decRound r s fun z => readRoundKey z r.toNat s fun k =>
    respondTransform (fun m => aesDecryptRound m k (r.toNat == 0)) blk s

end Sys2Proof.Machine
end

