-- ==== Sys2Proof/Machine/ScheduleCommands.lean ====
section
/-! DEFINITION. The unit command of the key schedule (41_key_schedule.md R140). -/

set_option autoImplicit false

namespace Sys2Proof.Machine

/-- R140. -/
def execReadSchedWord (i : Byte) (s : State) : Result :=
  indexed .readSchedWord i s fun z => readScheduleWord z i.toNat s fun w => respondBytes w s

end Sys2Proof.Machine
end

