-- ==== Sys2Proof/Machine/StateCommands.lean ====
section
/-! DEFINITION. The block-only unit commands of the state transform (42_state_transform.md R170 to R175). They need no
key and read no register. -/

set_option autoImplicit false

namespace Sys2Proof.Machine

/-- R170. -/
def execSubBytes (blk : Block) (s : State) : Result := respondTransform subBytes blk s

/-- R171. -/
def execInvSubBytes (blk : Block) (s : State) : Result := respondTransform invSubBytes blk s

/-- R172. -/
def execShiftRows (blk : Block) (s : State) : Result := respondTransform shiftRows blk s

/-- R173. -/
def execInvShiftRows (blk : Block) (s : State) : Result := respondTransform invShiftRows blk s

/-- R174. -/
def execMixColumns (blk : Block) (s : State) : Result := respondTransform mixColumns blk s

/-- R175. -/
def execInvMixColumns (blk : Block) (s : State) : Result := respondTransform invMixColumns blk s

end Sys2Proof.Machine
end

