-- ==== Sys2Proof/Machine/Dispatch.lean ====
section
/-! DEFINITION. One arm per row of spec/opcode_table.json. -/

namespace Sys2Proof.Machine

def exec (i : Instr) (s : State) : Host.Outcome State Fault Refusal :=
  match i with
  | .loadKey128 key => Sys2Proof.Machine.execLoadKey128 key s
  | .loadKey192 key => Sys2Proof.Machine.execLoadKey192 key s
  | .loadKey256 key => Sys2Proof.Machine.execLoadKey256 key s
  | .readKey => Sys2Proof.Machine.execReadKey s
  | .encrypt blk => Sys2Proof.Machine.execEncrypt blk s
  | .decrypt blk => Sys2Proof.Machine.execDecrypt blk s
  | .readSchedWord idx => Sys2Proof.Machine.execReadSchedWord idx s
  | .sbox b => Sys2Proof.Machine.execSbox b s
  | .invSbox b => Sys2Proof.Machine.execInvSbox b s
  | .xtime b => Sys2Proof.Machine.execXtime b s
  | .subBytes blk => Sys2Proof.Machine.execSubBytes blk s
  | .invSubBytes blk => Sys2Proof.Machine.execInvSubBytes blk s
  | .shiftRows blk => Sys2Proof.Machine.execShiftRows blk s
  | .invShiftRows blk => Sys2Proof.Machine.execInvShiftRows blk s
  | .mixColumns blk => Sys2Proof.Machine.execMixColumns blk s
  | .invMixColumns blk => Sys2Proof.Machine.execInvMixColumns blk s
  | .addRoundKey r blk => Sys2Proof.Machine.execAddRoundKey r blk s
  | .encRound r blk => Sys2Proof.Machine.execEncRound r blk s
  | .decRound r blk => Sys2Proof.Machine.execDecRound r blk s

end Sys2Proof.Machine
end

