-- ==== Sys2Proof/Machine/Transaction.lean ====
section
/-! DEFINITION. The transaction-level step of 30_encoding.md R70: one command from acceptance to the taking of its
response, and how the host's next command is placed. -/

set_option autoImplicit false

namespace Sys2Proof.Machine

/-- R70: `Exec(core, cmd)`: decode; a rejected word ends with its status (R241, R246); otherwise the command's rule runs,
with its own checks (R242). The response is then on offer. -/
def execCommand (c : Command) (s : State) : Result :=
  match decode s.params c with
  | .cmd i => exec i s
  | .illegal => raise .illegal s
  | .badKeySize => raise .keySize s

/-- R278: the last edge of a transaction: a response on offer is taken. -/
def deliver (s : State) : State :=
  match s.phase with
  | .respond r => s.takeResponse r
  | .idle => s
  | .busy _ _ => s

/-- R70, R278: the path IDLE, BUSY, RESPOND, IDLE of one command, from wherever in it the state stands. With no command
to issue the core waits in IDLE (R273). -/
def runTransaction (s : State) : Result :=
  match s.phase with
  | .idle =>
    match s.pending with
    | [] => .next s
    | c :: _ => andThen (execCommand c s) fun t => .next (deliver t)
  | .busy c _ => andThen (execCommand c s) fun t => .next (deliver t)
  | .respond _ => .next (deliver s)

/-- R79: the host issues `c` next, in place of the command it would have issued. -/
def placeCommand (c : Command) (s : State) : State := { s with phase := .idle, pending := c :: s.pending.tail }

/-- R79: the host's index `p`: it starts at 0 and advances by one per response. -/
def hostIndex (s : State) : Nat := s.responses.length

end Sys2Proof.Machine
end

