-- ==== Sys2Proof/Machine/Step.lean ====
section
/-! DEFINITION. One step of the machine: one command of the host's program, from acceptance to the taking of its
response (10_state.md R20, 30_encoding.md R70). -/

set_option autoImplicit false

namespace Sys2Proof.Machine

/-- R20, R70: one atomic step. -/
def step (s : State) : Host.Outcome State Fault Refusal := runTransaction s

/-- The command whose bits are `w` becomes the host's next command, and the core is ready for it. -/
def State.withFetchWord (s : State) (nbits w : Nat) : State := placeCommand (commandOfBits nbits w) s

end Sys2Proof.Machine
end

