-- ==== Sys2Proof/Machine/Assembler.lean ====
section
/-! DEFINITION. The assembler of 30_encoding.md R73 and R74: one line of text, as characters, to one command. Spaces and
tabs around the mnemonic and the operands are skipped (log entry 8). -/

set_option autoImplicit false

namespace Sys2Proof.Machine

/-- R73, R74: the mnemonics, `.CMD`, and the pseudo-instructions. -/
inductive AsmOp where
  | loadKey (z : KeySize)
  | readKey | encrypt | decrypt | readSchedWord
  | sbox | invSbox | xtime
  | subBytes | invSubBytes | shiftRows | invShiftRows | mixColumns | invMixColumns
  | addRoundKey | encRound | decRound
  | rawCommand
  | newKey | setKey | key
deriving DecidableEq, Repr

/-- R73, R74: the spelling of each mnemonic. -/
def mnemonicTable : List (List Char × AsmOp) :=
  [ (['L','O','A','D','_','K','E','Y','.','1','2','8'], .loadKey .aes128)
  , (['L','O','A','D','_','K','E','Y','.','1','9','2'], .loadKey .aes192)
  , (['L','O','A','D','_','K','E','Y','.','2','5','6'], .loadKey .aes256)
  , (['R','E','A','D','_','K','E','Y'], .readKey)
  , (['E','N','C','R','Y','P','T'], .encrypt)
  , (['D','E','C','R','Y','P','T'], .decrypt)
  , (['R','E','A','D','_','S','C','H','E','D','_','W','O','R','D'], .readSchedWord)
  , (['S','B','O','X'], .sbox)
  , (['I','N','V','_','S','B','O','X'], .invSbox)
  , (['X','T','I','M','E'], .xtime) ]
  ++
  [ (['S','U','B','_','B','Y','T','E','S'], .subBytes)
  , (['I','N','V','_','S','U','B','_','B','Y','T','E','S'], .invSubBytes)
  , (['S','H','I','F','T','_','R','O','W','S'], .shiftRows)
  , (['I','N','V','_','S','H','I','F','T','_','R','O','W','S'], .invShiftRows)
  , (['M','I','X','_','C','O','L','U','M','N','S'], .mixColumns)
  , (['I','N','V','_','M','I','X','_','C','O','L','U','M','N','S'], .invMixColumns)
  , (['A','D','D','_','R','O','U','N','D','_','K','E','Y'], .addRoundKey)
  , (['E','N','C','_','R','O','U','N','D'], .encRound)
  , (['D','E','C','_','R','O','U','N','D'], .decRound)
  , (['.','C','M','D'], .rawCommand)
  , (['N','E','W'], .newKey)
  , (['S','E','T','_','K','E','Y'], .setKey)
  , (['K','E','Y'], .key) ]

/-- The operation a mnemonic names. -/
def lookupMnemonic (m : List Char) : Option AsmOp := mnemonicTable.lookup m

/-- A space or a tab. -/
def isBlank (c : Char) : Bool := c == ' ' || c == '\t'

/-- The text without leading and trailing blanks. -/
def trimBlanks (cs : List Char) : List Char := ((cs.dropWhile isBlank).reverse.dropWhile isBlank).reverse

/-- The pieces of a text between commas; never empty. -/
def splitCommas : List Char → List (List Char)
  | [] => [[]]
  | c :: cs =>
    if c == ',' then [] :: splitCommas cs
    else
      match splitCommas cs with
      | [] => [[c]]
      | p :: ps => (c :: p) :: ps

/-- The value of a decimal digit. -/
def digitValue (c : Char) : Option Nat :=
  if 48 ≤ c.toNat ∧ c.toNat ≤ 57 then some (c.toNat - 48) else none

/-- The value of a hexadecimal digit, in either case. -/
def hexValue (c : Char) : Option Nat :=
  if 97 ≤ c.toNat ∧ c.toNat ≤ 102 then some (c.toNat - 87)
  else if 65 ≤ c.toNat ∧ c.toNat ≤ 70 then some (c.toNat - 55)
  else digitValue c

/-- The number that digits in a base continue from `acc`. -/
def digitsValue (digit : Char → Option Nat) (base : Nat) : Nat → List Char → Option Nat
  | acc, [] => some acc
  | acc, c :: cs =>
    match digit c with
    | some d => digitsValue digit base (acc * base + d) cs
    | none => none

/-- R73: `number`, decimal digits or `0x` and hexadecimal digits. -/
def parseNumber (cs : List Char) : Option Nat :=
  match cs with
  | [] => none
  | '0' :: 'x' :: [] => none
  | '0' :: 'x' :: ds => digitsValue hexValue 16 0 ds
  | ds => digitsValue digitValue 10 0 ds

/-- R73: `hexbytes`, an even number of hexadecimal digits, byte 0 first. -/
def parseHexBytes : List Char → Option (List Byte)
  | [] => some []
  | [_] => none
  | a :: b :: rest =>
    match hexValue a, hexValue b, parseHexBytes rest with
    | some x, some y, some bs => some (BitVec.ofNat 8 (16 * x + y) :: bs)
    | _, _, _ => none

/-- A byte list of the required length; R73 rejects any other. -/
def exactBytes (n : Nat) (bs : List Byte) : Option (Vector Byte n) :=
  if h : bs.length = n then some ⟨bs.toArray, by simp [h]⟩ else none

/-- R73: a byte operand of exactly `n` bytes. -/
def parseBytes (n : Nat) (cs : List Char) : Option (Vector Byte n) := (parseHexBytes cs).bind (exactBytes n)

/-- R73: the argument, a number in 0..255. -/
def parseArg (cs : List Char) : Option Byte :=
  (parseNumber cs).bind fun v => if v < 256 then some (BitVec.ofNat 8 v) else none

/-- R73: the data operand of `.CMD`: up to 32 bytes, padded with zeros. -/
def parseData (cs : List Char) : Option Bytes32 :=
  (parseHexBytes cs).bind fun bs =>
    if bs.length ≤ 32 then some (Vector.ofFn fun k : Fin 32 => bs.getD k.val 0) else none

/-- R73: the LOAD_KEY of a size with its key operand. -/
def assembleKey (z : KeySize) (k : List Char) : Option Instr :=
  match z with
  | .aes128 => (parseBytes 16 k).map Instr.loadKey128
  | .aes192 => (parseBytes 24 k).map Instr.loadKey192
  | .aes256 => (parseBytes 32 k).map Instr.loadKey256

/-- R74: NEW and SET_KEY choose the LOAD_KEY by the length of the key: 16, 24 or 32 bytes. -/
def assembleKeyByLength (k : List Char) : Option Instr :=
  if k.length = 32 then assembleKey .aes128 k
  else if k.length = 48 then assembleKey .aes192 k
  else if k.length = 64 then assembleKey .aes256 k
  else none

/-- A command with one block operand. -/
def assembleBlock (f : Block → Instr) (args : List (List Char)) : Option Instr :=
  match args with
  | [b] => (parseBytes 16 b).map f
  | _ => none

/-- A command with one number operand. -/
def assembleNumber (f : Byte → Instr) (args : List (List Char)) : Option Instr :=
  match args with
  | [n] => (parseArg n).map f
  | _ => none

/-- A command with a number and a block operand. -/
def assembleRound (f : Byte → Block → Instr) (args : List (List Char)) : Option Instr :=
  match args with
  | [n, b] => (parseArg n).bind fun r => (parseBytes 16 b).map (f r)
  | _ => none

/-- R73, R74: the instruction of a mnemonic other than `.CMD` with its operands. -/
def assembleInstr (op : AsmOp) (args : List (List Char)) : Option Instr :=
  match op with
  | .loadKey z =>
    match args with
    | [k] => assembleKey z k
    | _ => none
  | .newKey | .setKey =>
    match args with
    | [k] => assembleKeyByLength k
    | _ => none
  | .readKey | .key =>
    match args with
    | [] => some .readKey
    | _ :: _ => none
  | .encrypt => assembleBlock .encrypt args
  | .decrypt => assembleBlock .decrypt args
  | .readSchedWord => assembleNumber .readSchedWord args
  | .sbox => assembleNumber .sbox args
  | .invSbox => assembleNumber .invSbox args
  | .xtime => assembleNumber .xtime args
  | .subBytes => assembleBlock .subBytes args
  | .invSubBytes => assembleBlock .invSubBytes args
  | .shiftRows => assembleBlock .shiftRows args
  | .invShiftRows => assembleBlock .invShiftRows args
  | .mixColumns => assembleBlock .mixColumns args
  | .invMixColumns => assembleBlock .invMixColumns args
  | .addRoundKey => assembleRound .addRoundKey args
  | .encRound => assembleRound .encRound args
  | .decRound => assembleRound .decRound args
  | .rawCommand => none

/-- R73: `.CMD cw [, data]` emits a raw command word. -/
def assembleRaw (args : List (List Char)) : Option Command :=
  match args with
  | [w] => (parseNumber w).bind fun v => if v < 65536 then some { cw := BitVec.ofNat 16 v, cdata := zero32 } else none
  | [w, d] =>
    (parseNumber w).bind fun v =>
      if v < 65536 then (parseData d).map fun data => { cw := BitVec.ofNat 16 v, cdata := data } else none
  | _ => none

/-- R73: the command of a mnemonic with its operands. -/
def assembleOp (op : AsmOp) (args : List (List Char)) : Option Command :=
  match op with
  | .rawCommand => assembleRaw args
  | op => (assembleInstr op args).map encode

/-- R73: `line := mnemonic [ operand (, operand) ] [ ; comment ]`, as the operation and its operands. -/
def parseLine (line : List Char) : Option (AsmOp × List (List Char)) :=
  let body := trimBlanks (line.takeWhile fun c => c != ';')
  let name := body.takeWhile fun c => !isBlank c
  let rest := trimBlanks (body.dropWhile fun c => !isBlank c)
  let args := if rest.isEmpty then [] else (splitCommas rest).map trimBlanks
  (lookupMnemonic name).map fun op => (op, args)

/-- R73: the command of one line, none where the assembler rejects it. -/
def assembleLine (line : List Char) : Option Command :=
  (parseLine line).bind fun p => assembleOp p.1 p.2

/-- R73, R79: the program of a list of lines, rejected whole when one line is. -/
def assembleProgram : List (List Char) → Option (List Command)
  | [] => some []
  | l :: ls =>
    match assembleLine l, assembleProgram ls with
    | some c, some cs => some (c :: cs)
    | _, _ => none

end Sys2Proof.Machine
end

