-- ==== Sys2Proof/Machine/Instances.lean ====
section
/-! DEFINITION. Several cores in one system (60_exceptions.md R256): the product of single-instance machines. They share
only the constant ROMs. -/

set_option autoImplicit false

namespace Sys2Proof.Machine

/-- R256: instance `n` takes one step; every other instance stands still. With no such instance nothing happens.
DESIGN CHOICE, unsafe (log entry 2): instances whose draw counters agree draw equal unspecified contents; the spec leaves
these open for each instance. -/
def stepInstance (n : Nat) (cores : List State) : Host.Outcome (List State) Fault Refusal :=
  match cores[n]? with
  | none => .next cores
  | some s =>
    match step s with
    | .next t => .next (cores.set n t)
    | .fault r => .fault r
    | .refused r => .refused r

end Sys2Proof.Machine
end

