-- ==== Sys2Proof/Machine/Port.lean ====
section
/-! DEFINITION. The port protocol at cycle level (70_reset_and_hazards.md R270 to R283): the signals, one rising edge of
`clk`, the outputs, the latency, and the closed system of core and host. `step` is the transaction-level view of it. -/

set_option autoImplicit false

namespace Sys2Proof.Machine

/-- R277: the signals the core samples on a rising edge. -/
structure PortIn where
  rst      : Bool
  cmdValid : Bool
  cmdWord  : BitVec 16
  cmdData  : BitVec 256
  rspReady : Bool
deriving DecidableEq, Repr

/-- R277: the signals the core drives. -/
structure PortOut where
  cmdReady  : Bool
  rspValid  : Bool
  rspStatus : BitVec 8
  rspKsz    : BitVec 2
  rspData   : BitVec 256
deriving DecidableEq, Repr

/-- FREE VALUES (log entry 7): what stands on pins whose value the spec leaves unspecified: `rsp_*` while `rsp_valid` is
0 (R279, 93 I5), and `cmd_ready` in IDLE while `rst` is asserted, where R270 fixes it only from the cycle after. -/
structure FreePins where
  cmdReady  : Bool
  rspStatus : BitVec 8
  rspKsz    : BitVec 2
  rspData   : BitVec 256
deriving DecidableEq, Repr

/-- R278: the phase is IDLE. -/
def State.isIdle (s : State) : Bool :=
  match s.phase with
  | .idle => true
  | .busy _ _ => false
  | .respond _ => false

/-- R48, R270, R278 to R280: the outputs of a cycle. `cmd_ready` is 0 in BUSY and RESPOND, with or without `rst`;
`rsp_valid` is 0 while `rst` is asserted. -/
def portOutputs (rst : Bool) (free : FreePins) (s : State) : PortOut :=
  let ready := s.isIdle && (!rst || free.cmdReady)
  let silent : PortOut :=
    { cmdReady := ready, rspValid := false, rspStatus := free.rspStatus, rspKsz := free.rspKsz, rspData := free.rspData }
  match s.phase with
  | .idle => silent
  | .busy _ _ => silent
  | .respond r =>
    if rst then silent
    else
      { cmdReady := ready, rspValid := true, rspStatus := r.status.code, rspKsz := r.rksz, rspData := packBus r.rdata }

/-- R281: the `ksz` of `LATENCY(op, ksz)`: the size a LOAD_KEY carries, otherwise the active key's, 0 where there is
none (log entry 5). -/
def latencySize (d : WordDecode) (active : Option KeySize) : BitVec 2 :=
  match d with
  | .cmd .loadKey z _ => z.code
  | .cmd _ _ _ | .illegal | .badKeySize =>
    match active with
    | some z => z.code
    | none => 0

/-- R281: the latency of a command accepted in a state. It reads the command word, `KEY_VALID` and `KSZ`, and no data. -/
def latencyOf (params : Config.Params) (active : Option KeySize) (cw : BitVec 16) : Nat :=
  let d := decodeWord params cw
  Config.latency (opField cw) (latencySize d active) (checkStatus d active == .ok)

/-- R279: a command is accepted: its word and data are sampled, and BUSY lasts for its latency. -/
def State.accept (s : State) (c : Command) : State :=
  { s with phase := .busy c (latencyOf s.params s.activeSize c.cw) }

/-- R270 to R272, R278, R279: one rising edge of `clk`. Reset wins over everything. Leaving BUSY, the command's result
and its state writes appear together. -/
def clock (inp : PortIn) (s : State) : Result :=
  if inp.rst then .next s.resetCore
  else
    match s.phase with
    | .idle =>
      if inp.cmdValid then .next (s.accept { cw := inp.cmdWord, cdata := unpackBus inp.cmdData }) else .next s
    | .busy c left =>
      if left ≤ 1 then execCommand c s else .next { s with phase := .busy c (left - 1) }
    | .respond _ => if inp.rspReady then .next { s with phase := .idle } else .next s

/-! The host's side of the ports (R79, R257, R285). -/

/-- R257, R279: the host offers its next command when the core is ready, and drives `rst` and `rsp_ready` as given (DESIGN
CHOICE, safe, log entry 12). -/
def hostPins (rst rspReady : Bool) (s : State) : PortIn :=
  let none' : PortIn := { rst := rst, cmdValid := false, cmdWord := 0, cmdData := 0, rspReady := rspReady }
  if s.isIdle then
    match s.pending with
    | [] => none'
    | c :: _ => { none' with cmdValid := true, cmdWord := c.cw, cmdData := packBus c.cdata }
  else none'

/-- R271, R279: the response taken on an edge, if one is. -/
def takenResponse (inp : PortIn) (s : State) : Option Response :=
  match s.phase with
  | .respond r => if inp.rspReady && !inp.rst then some r else none
  | .idle => none
  | .busy _ _ => none

/-- R271: the command in flight: accepted, its response not yet taken. DESIGN CHOICE, unsafe (log entry 6): a command on offer
in IDLE on a reset edge is not in flight. -/
def State.inFlight (s : State) : Option Command :=
  match s.phase with
  | .idle => none
  | .busy c _ => some c
  | .respond _ => s.pending.head?

/-- R287: the run has begun: a command is in flight or has had its response. -/
def State.runBegun (s : State) : Bool := !s.isIdle || !s.responses.isEmpty

/-- R287: the host's record of the run that a reset closes in a state. DESIGN CHOICE, unsafe (log entry 6): a run that a reset
closes in IDLE while the host still holds commands is recorded as not ended, although each of its commands has its response;
R287 leaves open whether the commands before the reset are then a run that has ended. -/
def State.closedRun (s : State) : PastRun :=
  { responses := s.responses, inFlight := s.inFlight, ended := s.isIdle && s.pending.isEmpty }

/-- R287: a reset of a core in state `s` ends the host's run, if one has begun; `t` is the state after the edge. The next
run has no response yet, and its commands are those the host still holds (log entry 6). -/
def closeRun (s t : State) : State :=
  if s.runBegun then { t with responses := [], pastRuns := t.pastRuns ++ [s.closedRun] } else t

/-- R79, R287: what the host does on an edge from `s` to `t`: a reset closes its run; a taken response is kept, and the host
moves to its next command. -/
def hostMoves (inp : PortIn) (s t : State) : State :=
  if inp.rst then closeRun s t
  else
    match takenResponse inp s with
    | some r => { t with pending := t.pending.tail, responses := t.responses ++ [r] }
    | none => t

/-- One cycle of the closed system. -/
def cycle (rst rspReady : Bool) (s : State) : Result :=
  andThen (clock (hostPins rst rspReady s) s) fun t => .next (hostMoves (hostPins rst rspReady s) s t)

/-- Cycles without reset, one for each value of `rsp_ready`. -/
def runCycles : List Bool → State → Result
  | [], s => .next s
  | rdy :: rest, s => andThen (cycle false rdy s) (runCycles rest)

/-- R279, R285(b): the host's duty from a cycle with outputs `out` and pins `now` to the next cycle: an offer with
`cmd_ready = 0` stands unchanged. DESIGN CHOICE (log entry 12): under `rst` too the duty follows `cmd_ready`, which is a free
value in IDLE; an offer with `cmd_ready = 1` on a reset edge need not stand, though the model accepts nothing there. -/
def holdsOffer (out : PortOut) (now nxt : PortIn) : Bool :=
  !now.cmdValid || out.cmdReady
    || (nxt.cmdValid && decide (nxt.cmdWord = now.cmdWord) && decide (nxt.cmdData = now.cmdData))

end Sys2Proof.Machine
end

