-- ==== Sys2Proof/Safety.lean ====
section
/-! DEFINITION. What a sound state and a finished run are, in the terms that claims use (10_state.md R23, R26, R27;
30_encoding.md R69; 70_reset_and_hazards.md R287). -/

set_option autoImplicit false

namespace Sys2Proof.Machine

/-- R69, R240: an error response carries nothing else. -/
def Response.WellFormed (r : Response) : Prop := r.status ≠ .ok → r.rksz = 0 ∧ r.rdata = zero32

/-- R23: `KEY[4·Nk .. 31]` are zero. -/
def State.KeyPadded (s : State) : Prop := ∀ (i : Nat) (h : i < 32), 4 * s.ksz.nk ≤ i → s.key[i] = 0

/-- R26: `W[0 .. L-1]` equals `KeyExpansion(KSZ, KEY[0 .. 4·Nk-1])`, word for word. -/
def State.ScheduleMatches (s : State) : Prop :=
  ∀ (i : Nat) (h : i < 60), i < s.ksz.schedLen → (keyExpansion s.ksz s.key)[i]? = some s.w[i]

/-- R26, R27: the schedule invariant. -/
def State.ScheduleInv (s : State) : Prop := s.keyValid = true → s.KeyPadded ∧ s.ScheduleMatches

/-- R278, R281: a busy core has at least one cycle of its latency left; a response on offer is well formed. -/
def State.PhaseInv (s : State) : Prop :=
  match s.phase with
  | .idle => True
  | .busy _ left => 1 ≤ left
  | .respond r => r.WellFormed

/-- R287: a run that a reset closed holds well-formed responses, and has no command in flight if it had ended. -/
def PastRun.WellFormed (p : PastRun) : Prop :=
  (∀ r ∈ p.responses, r.WellFormed) ∧ (p.ended = true → p.inFlight = none)

/-- What every step keeps. -/
def State.Inv (s : State) : Prop :=
  s.ScheduleInv ∧ s.PhaseInv ∧ (∀ r ∈ s.responses, r.WellFormed) ∧ ∀ p ∈ s.pastRuns, p.WellFormed

/-- R287: the end state of a run: the core state, an unspecified register showing no value, with the responses in order. -/
def State.endState (s : State) : CoreView × List Response := (s.coreView, s.responses)

/-- All the responses the host has taken, over the closed runs and the present one. -/
def State.allResponses (s : State) : List Response := s.pastRuns.flatMap PastRun.responses ++ s.responses

/-- R287: the present run of the host's program has ended. No reset occurred during it, because a reset closes the run
(`closeRun`) and the present one began after the last reset. -/
def State.RunEnded (s : State) : Prop := s.phase = .idle ∧ s.pending = []

end Sys2Proof.Machine
end

