-- ==== Sys2Proof/Certificates/Slice0/Obligations.lean ====
section
/-! DEFINITION. The statements for the provers, and the predicates they share. -/

set_option autoImplicit false

open Sys2Proof Sys2Proof.Machine

namespace Sys2Proof.Claims

/-- An instruction completes: it answers OK with the bytes of `v`, every byte of `RDATA` beyond them zero and `RKSZ` 0,
and it changes nothing else in the whole state. -/
def AnswersBytes {n : Nat} (i : Instr) (s : State) (v : Vector Byte n) : Prop :=
  ∃ d : Bytes32,
    exec i s = .next { s with phase := .respond { status := .ok, rksz := 0, rdata := d } }
      ∧ (∀ (k : Nat) (h : k < n) (h' : k < 32), d[k] = v[k])
      ∧ ∀ (k : Nat) (h : k < 32), n ≤ k → d[k] = 0

/-- The error response of a status (R243). -/
def errorResponse (e : Status) : Response := { status := e, rksz := 0, rdata := zero32 }

/-- An instruction ends with an error response and changes nothing else. -/
def AnswersError (i : Instr) (s : State) (e : Status) : Prop :=
  exec i s = .next { s with phase := .respond (errorResponse e) }

/-- The core is in IDLE, `c` is the host's next command and `cs` are the ones after it. -/
def Issues (s : State) (c : Command) (cs : List Command) : Prop := s.phase = .idle ∧ s.pending = c :: cs

/-- The state after a transaction from `s` that changes no register and delivers `r`. -/
def delivered (s : State) (cs : List Command) (r : Response) : State :=
  { s with phase := .idle, pending := cs, responses := s.responses ++ [r] }

/-- The largest schedule index and the round count of the table of R245. -/
def tableLimits : KeySize → Nat × Nat
  | .aes128 => (43, 10)
  | .aes192 => (51, 12)
  | .aes256 => (59, 14)

/-- R7, R24: the key-size code, written out. -/
def sizeCode : KeySize → BitVec 2
  | .aes128 => 0b00
  | .aes192 => 0b01
  | .aes256 => 0b10

/-- R240: the five values of `STATUS`, written out. -/
def statusValue : Status → BitVec 8
  | .ok => 0x00
  | .illegal => 0x01
  | .keySize => 0x02
  | .noKey => 0x03
  | .range => 0x04

/-- R67: what makes a command word illegal, read off its four fields. -/
def IllegalWord (unitCmds : Bool) (op ksz rsv arg : Nat) : Prop :=
  op ∈ [0x00, 0x06, 0x07, 0x0B, 0x0C, 0x0D, 0x0E, 0x0F, 0x17, 0x1A, 0x1B, 0x1C, 0x1D, 0x1E, 0x1F]
    ∨ rsv = 1
    ∨ (ksz ≠ 0 ∧ op ≠ 0x01)
    ∨ (arg ≠ 0 ∧ op ∈ [0x01, 0x02, 0x03, 0x04, 0x10, 0x11, 0x12, 0x13, 0x14, 0x15])
    ∨ (unitCmds = false ∧ op ∈ [0x05, 0x08, 0x09, 0x0A, 0x10, 0x11, 0x12, 0x13, 0x14, 0x15, 0x16, 0x18, 0x19])

/-- R242: the first failing check of a decoded word, written out. -/
def firstFailing (d : WordDecode) (s : State) : Status :=
  match d with
  | .illegal => .illegal
  | .badKeySize => .keySize
  | .cmd op _ arg =>
    if op ∈ [Opcode.readKey, .encrypt, .decrypt, .readSchedWord, .addRoundKey, .encRound, .decRound] ∧ s.keyValid = false then
      .noKey
    else if (op = .readSchedWord ∧ ¬ arg.toNat ≤ 4 * (s.ksz.nr + 1) - 1)
        ∨ (op = .addRoundKey ∧ ¬ arg.toNat ≤ s.ksz.nr)
        ∨ (op = .encRound ∧ ¬ (1 ≤ arg.toNat ∧ arg.toNat ≤ s.ksz.nr))
        ∨ (op = .decRound ∧ ¬ arg.toNat ≤ s.ksz.nr - 1) then
      .range
    else .ok

/-- What a key load leaves: the four registers, the response, and the rest unchanged. The model's own draw counter, which
is no state of the spec, may move. -/
def KeyLoaded (s t : State) (z : KeySize) (kb : List Byte) : Prop :=
  t.keyValid = true ∧ t.ksz = z
    ∧ (∀ (i : Nat) (h : i < 32), t.key[i] = kb.getD i 0)
    ∧ (∀ (i : Nat) (h : i < 60), i < 4 * (z.nr + 1) → (keyExpansion z t.key)[i]? = some t.w[i])
    ∧ t.phase = .respond { status := .ok, rksz := 0, rdata := zero32 }
    ∧ t.params = s.params ∧ t.pending = s.pending ∧ t.responses = s.responses ∧ t.pastRuns = s.pastRuns

/-- R71: the bytes of `RDATA` that a command's rule writes. -/
def resultBytes : Opcode → Nat
  | .loadKey => 0
  | .readKey => 32
  | .readSchedWord => 4
  | .sbox | .invSbox | .xtime => 1
  | .encrypt | .decrypt => 16
  | .subBytes | .invSubBytes | .shiftRows | .invShiftRows | .mixColumns | .invMixColumns => 16
  | .addRoundKey | .encRound | .decRound => 16

/-- The first row of the MixColumns matrix (R154). -/
def mixRow : Vector Byte 4 := #v[2, 3, 1, 1]

/-- The first row of the InvMixColumns matrix (R155). -/
def invMixRow : Vector Byte 4 := #v[14, 11, 13, 9]

/-- Byte `r` of the product, in the field of R100, of a column and the matrix whose row `r` is `row` rotated right by
`r` places. -/
def matrixByte (row : Vector Byte 4) (a : Fin 4 → Byte) (r : Fin 4) : Byte :=
  (List.finRange 4).foldl (fun acc j => acc ^^^ gfMul (a j) row[(j.val + 4 - r.val) % 4]) 0

/-- Two states that agree on all the spec lets a host observe: what the unspecified contents are (R26, R33) and the
model's draw counter (log entry 2) may differ. -/
def Indistinguishable (s s' : State) : Prop :=
  s.params = s'.params ∧ s.keyValid = s'.keyValid ∧ s.phase = s'.phase ∧ s.pending = s'.pending
    ∧ s.responses = s'.responses ∧ s.pastRuns = s'.pastRuns
    ∧ (s.keyValid = true →
        s.key = s'.key ∧ s.ksz = s'.ksz
          ∧ ∀ (i : Nat) (h : i < 60), i < 4 * (s.ksz.nr + 1) → s.w[i] = s'.w[i])

end Sys2Proof.Claims

open Sys2Proof.Claims

/-! ## Reset, the invariant and the step -/

/-- R34. The state summary: its value after reset, that a valid key makes the other three registers show values that
meet R26, and that a LOAD_KEY writes all four in one step. The spec derives this summary itself: "[derived: from rules R22
to R27 and rule R33]". -/
def Obligations.CoreViewSummary : Prop :=
  State.reset.coreView = { key := none, ksz := none, keyValid := false, w := none }
    ∧ (∀ s : State, s.Inv → s.coreView.keyValid = true →
        ∃ k z w, s.coreView = { key := some k, ksz := some z, keyValid := true, w := some w }
          ∧ ∀ (i : Nat) (h : i < 60), i < 4 * (z.nr + 1) → (keyExpansion z k)[i]? = some w[i])
    ∧ ∀ (i : Instr) (s : State), i.opcode = .loadKey →
        ∃ t k z w, exec i s = .next t
          ∧ t.coreView = { key := some k, ksz := some z, keyValid := true, w := some w }
          ∧ ∀ (j : Nat) (h : j < 60), j < 4 * (z.nr + 1) → (keyExpansion z k)[j]? = some w[j]

/-- The invariant (R26, R27, R69) holds at reset. -/
def Obligations.InvariantHoldsAtReset : Prop := State.reset.Inv

/-- R27. Between commands, when `KEY_VALID = 1`, `KEY` is padded and `W` is its schedule: every step keeps it, from
every state that meets it. -/
def Obligations.EveryStepKeepsTheInvariant : Prop := ∀ s t : State, s.Inv → step s = .next t → t.Inv

/-- At cycle level too, reset included: on every edge of the core, whatever the pins carry, and in every cycle of core and
host. -/
def Obligations.EveryClockEdgeKeepsTheInvariant : Prop :=
  (∀ (inp : PortIn) (s t : State), s.Inv → clock inp s = .next t → t.Inv)
    ∧ ∀ (rst rdy : Bool) (s t : State), s.Inv → cycle rst rdy s = .next t → t.Inv

/-- R258, R259. No instruction, no step and no clock edge ever stops, from any state: every instruction ends with a
response on offer. -/
def Obligations.NothingEverStops : Prop :=
  (∀ (i : Instr) (s : State), ∃ t r, exec i s = .next t ∧ t.phase = .respond r)
    ∧ (∀ s : State, ∃ t, step s = .next t)
    ∧ ∀ (inp : PortIn) (s : State), ∃ t, clock inp s = .next t

/-- R70. A step of an idle core whose next command decodes to `i` is `exec i` and then, if that answers a next state, the
taking of the response: IDLE again, the host's next command, one more response. A core without a command stays as it is. -/
def Obligations.StepRunsTheDecodedInstruction : Prop :=
  (∀ (s : State) (c : Command) (cs : List Command) (i : Instr), Issues s c cs → decode s.params c = .cmd i →
      step s = andThen (exec i s) fun t => .next (deliver t))
    ∧ (∀ (t : State) (r : Response), t.phase = .respond r →
        deliver t = { t with phase := .idle, pending := t.pending.tail, responses := t.responses ++ [r] })
    ∧ ∀ s : State, s.phase = .idle → s.pending = [] → step s = .next s

/-- R53, R72, R79, R287. From an idle core, as many steps as the host has commands end the run: every command has had
exactly one response, and they stand in order after those there were. In order: after `k` steps command `k` is the next one,
and response `k` is what the step of that state delivers. No run is closed meanwhile: no reset occurred. How a program comes
to the host is log entry 3. -/
def Obligations.ProgramRunGivesOneResponsePerCommand : Prop :=
  ∀ s : State, s.phase = .idle →
    ∃ t rs, Sys2Proof.core.run s.pending.length s = .next t ∧ State.RunEnded t
      ∧ State.responses t = s.responses ++ rs ∧ rs.length = s.pending.length ∧ State.pastRuns t = s.pastRuns
      ∧ ∀ (k : Nat) (h : k < s.pending.length), ∃ u v r,
          Sys2Proof.core.run k s = .next u ∧ Issues u s.pending[k] (s.pending.drop (k + 1)) ∧ step u = .next v
            ∧ rs[k]? = some r ∧ State.responses v = State.responses u ++ [r]

/-- A run of a program of `n + 1` commands is the step of the first and then the run of the others (R53). -/
def Obligations.RunIsStepThenRun : Prop :=
  ∀ (s t : State) (c : Command) (cs : List Command), Issues s c cs → step s = .next t →
    t.phase = .idle ∧ t.pending = cs
      ∧ Sys2Proof.core.run (cs.length + 1) s = Sys2Proof.core.run cs.length t

/-! ## Decode and encode -/

/-- Decode of encode is the instruction, for every instruction with every operand that a core with the given parameters
has (R61 to R66). -/
def Obligations.DecodeOfEncodeIsTheInstruction : Prop :=
  ∀ (p : Config.Params) (i : Instr), i.wellFormed p = true → decode p (encode i) = .cmd i

/-- Encode of decode is the command word, and the data operand with every ignored byte zero (R64, R66, R71). -/
def Obligations.EncodeOfDecodeIsTheCommand : Prop :=
  ∀ (p : Config.Params) (c : Command) (i : Instr), decode p c = .cmd i →
    i.wellFormed p = true ∧ (encode i).cw = c.cw
      ∧ ∀ (k : Nat) (h : k < 32), (encode i).cdata[k] = if k < i.operandBytes then c.cdata[k] else 0

/-- R61, R65, R75: command words written out bit by bit decode to what they stand for. -/
def Obligations.WrittenWordsDecode : Prop :=
  (∃ k, decodeTableWord 16 0b00000000_0_01_00001 = some (.loadKey192 k))
    ∧ decodeTableWord 16 0b00000000_0_00_00010 = some .readKey
    ∧ decodeTableWord 16 0b00101011_0_00_00101 = some (.readSchedWord 43)
    ∧ decodeTableWord 16 0b01010011_0_00_01000 = some (.sbox 0x53)
    ∧ (∃ b, decodeTableWord 16 0b00000000_0_00_10101 = some (.invMixColumns b))
    ∧ (∃ b, decodeTableWord 16 0b00000001_0_00_11000 = some (.encRound 1 b))
    ∧ decodeTableWord 16 0b01010011_0_01_01000 = none

/-- R67. The words that decode to ILLEGAL are exactly those of (a) to (e), their command ends with E_ILLEGAL and writes
no state; 0x0061 alone decodes to BAD_KEY_SIZE and ends with E_KEY_SIZE. -/
def Obligations.IllegalWordsAreExactlyThese : Prop :=
  (∀ (p : Config.Params) (cw : BitVec 16),
      decodeWord p cw = .illegal
        ↔ IllegalWord p.unitCmds (cw.toNat % 32) (cw.toNat / 32 % 4) (cw.toNat / 128 % 2) (cw.toNat / 256))
    ∧ (∀ (p : Config.Params) (cw : BitVec 16), decodeWord p cw = .badKeySize ↔ cw = 0x0061)
    ∧ ∀ (s : State) (c : Command) (cs : List Command), Issues s c cs →
        (decodeWord s.params c.cw = .illegal → step s = .next (delivered s cs (errorResponse .illegal)))
          ∧ (decodeWord s.params c.cw = .badKeySize → step s = .next (delivered s cs (errorResponse .keySize)))

/-- R66. With `UNIT_CMDS = false` seven words do not decode to ILLEGAL, the same whatever the fields say otherwise. -/
def Obligations.FacadeOnlyCoreHasSevenWords : Prop :=
  ∀ cw : BitVec 16, decodeWord { unitCmds := false } cw ≠ .illegal
    ↔ cw ∈ [(0x0001 : BitVec 16), 0x0021, 0x0041, 0x0061, 0x0002, 0x0003, 0x0004]

/-- R71. A command ignores every byte of `CDATA` that R64 does not list for it: commands with the same word that agree
on the listed bytes have the same step. Every byte of `RDATA` that a command's rule does not write is zero. -/
def Obligations.UnusedBytesAreIgnoredAndZero : Prop :=
  (∀ (s : State) (c c' : Command) (cs : List Command) (i : Instr), Issues s c cs → decode s.params c = .cmd i →
      c'.cw = c.cw → (∀ (k : Nat) (h : k < 32), k < i.operandBytes → c'.cdata[k] = c.cdata[k]) →
      step { s with pending := c' :: cs } = step s)
    ∧ ∀ (i : Instr) (s t : State) (r : Response), exec i s = .next t → t.phase = .respond r →
        ∀ (k : Nat) (h : k < 32), resultBytes i.opcode ≤ k → r.rdata[k] = 0

/-! ## Checks and errors -/

/-- R242. The status of a response is the first failing check, in the order E_ILLEGAL, E_KEY_SIZE, E_NO_KEY, E_RANGE,
and OK when none fails. -/
def Obligations.StatusIsTheFirstFailingCheck : Prop :=
  ∀ (s : State) (c : Command) (cs : List Command), Issues s c cs →
    ∃ t r, step s = .next t ∧ t.responses = s.responses ++ [r] ∧ r.status = firstFailing (decodeWord s.params c.cw) s

/-- R243. An error writes no state: the response carries nothing else, and every register is as it was. -/
def Obligations.ErrorWritesNoState : Prop :=
  ∀ (s t : State) (c : Command) (cs : List Command) (r : Response), Issues s c cs → step s = .next t →
    t.responses = s.responses ++ [r] → r.status ≠ .ok →
    r = errorResponse r.status ∧ t = delivered s cs r

/-- R244. A keyed command without a key ends with E_NO_KEY; the other commands always answer OK; `KEY_VALID` rises
exactly with a LOAD_KEY, from 0 at reset. -/
def Obligations.KeyedCommandsNeedAKey : Prop :=
  State.reset.keyValid = false
    ∧ (∀ (i : Instr) (s : State), keyedOp i.opcode = true → s.keyValid = false → AnswersError i s .noKey)
    ∧ (∀ (i : Instr) (s : State), keyedOp i.opcode = false →
        ∃ t r, exec i s = .next t ∧ t.phase = .respond r ∧ r.status = .ok)
    ∧ ∀ (i : Instr) (s t : State), exec i s = .next t →
        (t.keyValid = true ↔ s.keyValid = true ∨ i.opcode = .loadKey)

/-- R245. The table of legal arguments, in numbers: outside it the command ends with E_RANGE, inside it the command
answers OK; ENCRYPT, DECRYPT and LOAD_KEY are never out of range. -/
def Obligations.IndexRangesOfTheActiveKey : Prop :=
  ∀ (s : State) (a : Byte) (b : Block), s.keyValid = true →
    ((tableLimits s.ksz).1 < a.toNat → AnswersError (.readSchedWord a) s .range)
      ∧ (a.toNat ≤ (tableLimits s.ksz).1 → ∃ v : Word, AnswersBytes (.readSchedWord a) s v)
      ∧ ((tableLimits s.ksz).2 < a.toNat → AnswersError (.addRoundKey a b) s .range)
      ∧ (a.toNat ≤ (tableLimits s.ksz).2 → ∃ v : Block, AnswersBytes (.addRoundKey a b) s v)
      ∧ ((a = 0 ∨ (tableLimits s.ksz).2 < a.toNat) → AnswersError (.encRound a b) s .range)
      ∧ ((1 ≤ a.toNat ∧ a.toNat ≤ (tableLimits s.ksz).2) → ∃ v : Block, AnswersBytes (.encRound a b) s v)
      ∧ ((tableLimits s.ksz).2 ≤ a.toNat → AnswersError (.decRound a b) s .range)
      ∧ (a.toNat < (tableLimits s.ksz).2 → ∃ v : Block, AnswersBytes (.decRound a b) s v)
      ∧ (∃ v : Block, AnswersBytes (.encrypt b) s v) ∧ (∃ v : Block, AnswersBytes (.decrypt b) s v)
      ∧ ∀ i : Instr, i.opcode = .loadKey →
          ∃ t, exec i s = .next t ∧ t.phase = .respond { status := .ok, rksz := 0, rdata := zero32 }

/-! ## Frames -/

/-- What every instruction leaves unchanged: all but a LOAD_KEY change nothing except the response on offer, so `KEY`,
`KSZ`, `KEY_VALID`, `W`, the parameters and the host's side stay; a LOAD_KEY leaves the parameters and the host's side. -/
def Obligations.FrameOfEveryInstruction : Prop :=
  ∀ (i : Instr) (s t : State), exec i s = .next t →
    (i.opcode ≠ .loadKey → ∃ r, t = { s with phase := .respond r })
      ∧ t.params = s.params ∧ t.pending = s.pending ∧ t.responses = s.responses ∧ t.pastRuns = s.pastRuns

/-- R51. Only a successful LOAD_KEY changes core state, and repeating any command gives the same response and the same
state. The spec derives this itself: "[derived: from the command rules". After a LOAD_KEY "the same state" is all the spec
specifies: `W` beyond the schedule is unspecified (R26), and the model draws it anew (log entry 2). -/
def Obligations.CommandsAreIdempotent : Prop :=
  (∀ (s t : State) (c : Command) (cs : List Command), Issues s c cs → step s = .next t →
      (∀ z a, decodeWord s.params c.cw ≠ .cmd .loadKey z a) → ∃ r, t = delivered s cs r)
    ∧ ∀ (i : Instr) (s t u : State), exec i s = .next t → exec i { t with phase := s.phase } = .next u →
        u.phase = t.phase ∧ u.key = t.key ∧ u.ksz = t.ksz ∧ u.keyValid = t.keyValid
          ∧ u.params = t.params ∧ u.pending = t.pending ∧ u.responses = t.responses ∧ u.pastRuns = t.pastRuns
          ∧ (i.opcode ≠ .loadKey → u = t)
          ∧ ∀ (k : Nat) (h : k < 60), k < 4 * (t.ksz.nr + 1) → u.w[k] = t.w[k]

/-! ## The facade commands -/

/-- R23. After a LOAD_KEY, which always completes, `KEY` holds the key bytes in order and zeros above them, `KSZ` the size, `W` the
schedule of that key, `KEY_VALID` is 1, and the response is OK without data; no other command writes `KEY`. -/
def Obligations.LoadKeyWritesTheKeyRegisters : Prop :=
  (∀ (s : State) (k : Vector Byte 16), ∃ t, exec (.loadKey128 k) s = .next t ∧ KeyLoaded s t .aes128 k.toList)
    ∧ (∀ (s : State) (k : Vector Byte 24), ∃ t, exec (.loadKey192 k) s = .next t ∧ KeyLoaded s t .aes192 k.toList)
    ∧ (∀ (s : State) (k : Bytes32), ∃ t, exec (.loadKey256 k) s = .next t ∧ KeyLoaded s t .aes256 k.toList)
    ∧ ∀ (i : Instr) (s t : State), exec i s = .next t → i.opcode ≠ .loadKey → t.key = s.key

/-- R207. READ_KEY with a key answers OK, the key-size code and all 32 bytes of `KEY`, and changes nothing else; after a
LOAD_KEY of any of the three sizes those are its code, the loaded key and zeros. -/
def Obligations.ReadKeyReturnsTheActiveKey : Prop :=
  (∀ s : State, s.keyValid = true →
      exec .readKey s
        = .next { s with phase := .respond { status := .ok, rksz := sizeCode s.ksz, rdata := s.key } })
    ∧ (∀ (s t : State) (k : Vector Byte 16), exec (.loadKey128 k) s = .next t →
        ∃ d : Bytes32,
          exec .readKey t = .next { t with phase := .respond { status := .ok, rksz := 0b00, rdata := d } }
            ∧ (∀ (j : Nat) (h : j < 16), d[j] = k[j]) ∧ ∀ (j : Nat) (h : j < 32), 16 ≤ j → d[j] = 0)
    ∧ (∀ (s t : State) (k : Vector Byte 24), exec (.loadKey192 k) s = .next t →
        ∃ d : Bytes32,
          exec .readKey t = .next { t with phase := .respond { status := .ok, rksz := 0b01, rdata := d } }
            ∧ (∀ (j : Nat) (h : j < 24), d[j] = k[j]) ∧ ∀ (j : Nat) (h : j < 32), 24 ≤ j → d[j] = 0)
    ∧ ∀ (s t : State) (k : Bytes32), exec (.loadKey256 k) s = .next t →
        exec .readKey t = .next { t with phase := .respond { status := .ok, rksz := 0b10, rdata := k } }

/-- R213, R214. With a key, ENCRYPT and DECRYPT complete and undo each other, for every block, key size and schedule;
`InvCipher` is the inverse function of `Cipher`, which the spec derives itself in R214. -/
def Obligations.DecryptUndoesEncrypt : Prop :=
  (∀ (w : ScheduleStore) (z : KeySize) (m : StateMatrix),
      invCipher w z (cipher w z m) = m ∧ cipher w z (invCipher w z m) = m)
    ∧ (∀ (w : ScheduleStore) (z : KeySize) (b : Block),
        storeState (invCipher w z (loadState (storeState (cipher w z (loadState b))))) = b
          ∧ storeState (cipher w z (loadState (storeState (invCipher w z (loadState b))))) = b)
    ∧ ∀ (s : State) (b : Block), s.keyValid = true →
        (∃ c : Block, AnswersBytes (.encrypt b) s c ∧ AnswersBytes (.decrypt c) s b)
          ∧ ∃ c : Block, AnswersBytes (.decrypt b) s c ∧ AnswersBytes (.encrypt c) s b

/-- R215. ENCRYPT is ADD_ROUND_KEY 0 and then ENC_ROUND 1 to Nr, each fed the previous output; DECRYPT is ADD_ROUND_KEY
Nr and then DEC_ROUND Nr-1 down to 0. The spec derives this itself: R215, "[derived: from those rules]". -/
def Obligations.CipherIsItsUnitCommands : Prop :=
  ∀ (s : State) (b : Block), s.keyValid = true →
    (∃ x : Nat → Block,
        AnswersBytes (.addRoundKey 0 b) s (x 0)
          ∧ (∀ r, 1 ≤ r → r ≤ s.ksz.nr → AnswersBytes (.encRound (BitVec.ofNat 8 r) (x (r - 1))) s (x r))
          ∧ AnswersBytes (.encrypt b) s (x s.ksz.nr))
      ∧ ∃ y : Nat → Block,
          AnswersBytes (.addRoundKey (BitVec.ofNat 8 s.ksz.nr) b) s (y s.ksz.nr)
            ∧ (∀ r, r < s.ksz.nr → AnswersBytes (.decRound (BitVec.ofNat 8 r) (y (r + 1))) s (y r))
            ∧ AnswersBytes (.decrypt b) s (y 0)

/-! ## The field primitives and their commands -/

/-- R110 to R112. SBOX, INV_SBOX and XTIME complete in every state with one result byte: the table entry at the row of
the high and the column of the low nibble, and the doubled byte reduced by 0x1b. -/
def Obligations.FieldCommandsAnswerOneByte : Prop :=
  ∀ (s : State) (b : Byte),
    AnswersBytes (.sbox b) s #v[((sboxTable[b.toNat / 16]?).bind fun row => row[b.toNat % 16]?).getD 0]
      ∧ AnswersBytes (.invSbox b) s #v[((invSboxTable[b.toNat / 16]?).bind fun row => row[b.toNat % 16]?).getD 0]
      ∧ AnswersBytes (.xtime b) s
          #v[BitVec.ofNat 8 (if 128 ≤ b.toNat then (2 * b.toNat - 256) ^^^ 0x1b else 2 * b.toNat)]

/-- R106. The two tables are inverse permutations of the byte values. The spec derives the second equation itself: "[derived:
from the quoted sentences]". -/
def Obligations.SboxTablesAreInverse : Prop :=
  (∀ b : Byte, invSboxEntry (sboxEntry b) = b ∧ sboxEntry (invSboxEntry b) = b)
    ∧ Function.Bijective sboxEntry ∧ Function.Bijective invSboxEntry

/-- R107. The S-box is the affine map of the field inverse, with 0 as the inverse of 0; it maps no byte to itself or to
its complement. The spec marks the construction "[from general knowledge, not in source]". -/
def Obligations.SboxIsTheAffineImageOfTheInverse : Prop :=
  sboxEntry 0 = sboxAffine 0
    ∧ (∀ b : Byte, b ≠ 0 → ∃ x : Byte, gfMul b x = 1 ∧ sboxEntry b = sboxAffine x)
    ∧ (∀ (x : Byte) (i : Nat), i < 8 →
        (sboxAffine x).getLsbD i
          = (x.getLsbD i ^^ x.getLsbD ((i + 4) % 8) ^^ x.getLsbD ((i + 5) % 8) ^^ x.getLsbD ((i + 6) % 8)
              ^^ x.getLsbD ((i + 7) % 8) ^^ (0x63 : Byte).getLsbD i))
    ∧ ∀ b : Byte, sboxEntry b ≠ b ∧ sboxEntry b ≠ b ^^^ 0xff

/-- R102. `gf_mulc(b, c)` is the product of `b` and the constant in the field of R100, so `xtime` is the product with 2. -/
def Obligations.ConstantMultiplicationIsFieldMultiplication : Prop :=
  (∀ (b : Byte) (c : MulConst), gfMulc b c = gfMul b c.byte) ∧ ∀ b : Byte, gfXtime b = gfMul b 2

/-- R103. The laws of the primitives: additivity, and 3 = 2 + 1. The spec derives them itself: "[derived: from rules R101
and R102]". -/
def Obligations.FieldPrimitivesAreAdditive : Prop :=
  (∀ a b : Byte, gfXtime (a ^^^ b) = gfXtime a ^^^ gfXtime b)
    ∧ (∀ (a b : Byte) (c : MulConst), gfMulc (a ^^^ b) c = gfMulc a c ^^^ gfMulc b c)
    ∧ ∀ b : Byte, gfMulc b .c3 = gfMulc b .c2 ^^^ b

/-! ## The key schedule -/

/-- R134. `KeyExpansion`: its length, its first `Nk` words, and byte by byte the recurrence of each later word, with its
three branches. -/
def Obligations.KeyExpansionMeetsItsRecurrence : Prop :=
  ∀ (z : KeySize) (kb : Bytes32),
    (keyExpansion z kb).length = 4 * (z.nr + 1)
      ∧ (∀ (i : Nat), i < z.nk → ∃ w : Word, (keyExpansion z kb)[i]? = some w
          ∧ ∀ (k : Nat) (h : k < 4), some w[k] = kb[4 * i + k]?)
      ∧ ∀ (i : Nat), z.nk ≤ i → i < 4 * (z.nr + 1) →
          ∃ prev old cur : Word,
            (keyExpansion z kb)[i - 1]? = some prev ∧ (keyExpansion z kb)[i - z.nk]? = some old
              ∧ (keyExpansion z kb)[i]? = some cur
              ∧ (i % z.nk = 0 →
                  ∃ rc : Word, rconTable[i / z.nk - 1]? = some rc
                    ∧ ∀ (k : Nat) (h : k < 4),
                        cur[k] = old[k] ^^^ (sboxEntry prev[(k + 1) % 4] ^^^ if k = 0 then rc[0] else 0))
              ∧ (i % z.nk ≠ 0 → z.nk = 8 → i % z.nk = 4 →
                  ∀ (k : Nat) (h : k < 4), cur[k] = old[k] ^^^ sboxEntry prev[k])
              ∧ (i % z.nk ≠ 0 → ¬ (z.nk = 8 ∧ i % z.nk = 4) →
                  ∀ (k : Nat) (h : k < 4), cur[k] = old[k] ^^^ prev[k])

/-- R133. RotWord moves the first byte to the last place; as a 32-bit number it is a left rotation by 8 bits, which
the spec derives itself: "[derived: from 20_memory.md rule R42]". -/
def Obligations.RotWordRotatesLeftByEight : Prop :=
  ∀ w : Word, rotWord w = #v[w[1], w[2], w[3], w[0]] ∧ wordNumber (rotWord w) = (wordNumber w).rotateLeft 8

/-- R140. READ_SCHED_WORD with a key and an index of the schedule completes with the word `W[i]`, which in a state that
meets the invariant is the word of `KeyExpansion` for the active key. -/
def Obligations.ReadSchedWordReturnsTheWord : Prop :=
  ∀ (s : State) (i : Byte) (h : i.toNat < 60), s.keyValid = true → i.toNat ≤ 4 * s.ksz.nr + 3 →
    AnswersBytes (.readSchedWord i) s s.w[i.toNat]
      ∧ (s.Inv → (keyExpansion s.ksz s.key)[i.toNat]? = some s.w[i.toNat])

/-! ## The state transform -/

/-- R170, R171. SUB_BYTES and INV_SUB_BYTES complete in every state; output byte `k` is the table's entry for input byte
`k`. -/
def Obligations.SubBytesCommandsSubstituteEachByte : Prop :=
  ∀ (s : State) (b : Block),
    AnswersBytes (.subBytes b) s (b.map sboxEntry) ∧ AnswersBytes (.invSubBytes b) s (b.map invSboxEntry)

/-- R172, R173. SHIFT_ROWS and INV_SHIFT_ROWS complete in every state; output byte `r + 4c` is input byte
`r + 4·((c + r) mod 4)`, or `r + 4·((c + 4 - r) mod 4)`. -/
def Obligations.ShiftRowsCommandsMoveBytes : Prop :=
  ∀ (s : State) (b : Block), ∃ v u : Block,
    AnswersBytes (.shiftRows b) s v ∧ AnswersBytes (.invShiftRows b) s u
      ∧ ∀ r c : Fin 4,
          v[r.val + 4 * c.val]? = b[r.val + 4 * ((c.val + r.val) % 4)]?
            ∧ u[r.val + 4 * c.val]? = b[r.val + 4 * ((c.val + 4 - r.val) % 4)]?

/-- R154, R155, R174, R175. MIX_COLUMNS and INV_MIX_COLUMNS complete in every state; each column of four bytes is
multiplied, in the field of R100, by the matrix whose rows are 2 3 1 1, or 14 11 13 9, rotated right. -/
def Obligations.MixColumnsCommandsMultiplyByTheMatrix : Prop :=
  ∀ (s : State) (b : Block), ∃ v u : Block,
    AnswersBytes (.mixColumns b) s v ∧ AnswersBytes (.invMixColumns b) s u
      ∧ ∀ r c : Fin 4,
          v[r.val + 4 * c.val]? = some (matrixByte mixRow (fun j => b[j.val + 4 * c.val]) r)
            ∧ u[r.val + 4 * c.val]? = some (matrixByte invMixRow (fun j => b[j.val + 4 * c.val]) r)

/-- R157. The inverse laws of the state operations. The spec derives most of them itself: "the rest derived from rules R150
to R156". -/
def Obligations.StateOperationsHaveInverses : Prop :=
  ∀ (s : StateMatrix) (k : RoundKey),
    invSubBytes (subBytes s) = s ∧ subBytes (invSubBytes s) = s
      ∧ invShiftRows (shiftRows s) = s ∧ shiftRows (invShiftRows s) = s
      ∧ invMixColumns (mixColumns s) = s ∧ mixColumns (invMixColumns s) = s
      ∧ addRoundKey (addRoundKey s k) k = s
      ∧ shiftRows (subBytes s) = subBytes (shiftRows s)
      ∧ invShiftRows (invSubBytes s) = invSubBytes (invShiftRows s)

/-- R203. Loading and storing a block are inverse. The spec derives this itself: "[derived: from rules R201 and R202". -/
def Obligations.LoadAndStoreAreInverse : Prop :=
  (∀ b : Block, storeState (loadState b) = b) ∧ ∀ s : StateMatrix, loadState (storeState s) = s

/-- R166, R176. ADD_ROUND_KEY `r` with a key and `r ≤ Nr` completes; output byte `k` is input byte `k` XOR byte `k mod 4`
of `W[4r + k/4]`. -/
def Obligations.AddRoundKeyCommandXorsTheRoundKey : Prop :=
  ∀ (s : State) (r : Byte) (b : Block), s.keyValid = true → r.toNat ≤ s.ksz.nr →
    ∃ v : Block, AnswersBytes (.addRoundKey r b) s v
      ∧ ∀ (k : Nat) (h : k < 16), ∃ w : Word, s.w[4 * r.toNat + k / 4]? = some w ∧ v[k] = b[k] ^^^ w[k % 4]

/-- R137, R176. In a state that meets the invariant, ADD_ROUND_KEY 0 with a key of any size XORs the block with the first 16
bytes of `KEY`. -/
def Obligations.AddRoundKeyZeroXorsTheKey : Prop :=
  ∀ (s : State) (b : Block), s.Inv → s.keyValid = true →
    ∃ v : Block, AnswersBytes (.addRoundKey 0 b) s v ∧ ∀ (k : Nat) (h : k < 16), v[k] = b[k] ^^^ s.key[k]

/-- R160, R167, R177. ENC_ROUND `r` with a key and `1 ≤ r ≤ Nr` completes with what SUB_BYTES, SHIFT_ROWS, MIX_COLUMNS
(left out exactly when `r = Nr`) and ADD_ROUND_KEY `r` give in that order. -/
def Obligations.EncRoundIsItsUnitCommands : Prop :=
  ∀ (s : State) (r : Byte) (b : Block), s.keyValid = true → 1 ≤ r.toNat → r.toNat ≤ s.ksz.nr →
    ∃ b1 b2 b3 b4 : Block,
      AnswersBytes (.subBytes b) s b1 ∧ AnswersBytes (.shiftRows b1) s b2
        ∧ (r.toNat = s.ksz.nr → b3 = b2) ∧ (r.toNat ≠ s.ksz.nr → AnswersBytes (.mixColumns b2) s b3)
        ∧ AnswersBytes (.addRoundKey r b3) s b4 ∧ AnswersBytes (.encRound r b) s b4

/-- R161, R168, R178. DEC_ROUND `r` with a key and `r < Nr` completes with what INV_SHIFT_ROWS, INV_SUB_BYTES,
ADD_ROUND_KEY `r` and INV_MIX_COLUMNS (left out exactly when `r = 0`) give in that order. -/
def Obligations.DecRoundIsItsUnitCommands : Prop :=
  ∀ (s : State) (r : Byte) (b : Block), s.keyValid = true → r.toNat < s.ksz.nr →
    ∃ b1 b2 b3 b4 : Block,
      AnswersBytes (.invShiftRows b) s b1 ∧ AnswersBytes (.invSubBytes b1) s b2
        ∧ AnswersBytes (.addRoundKey r b2) s b3
        ∧ (r.toNat = 0 → b4 = b3) ∧ (r.toNat ≠ 0 → AnswersBytes (.invMixColumns b3) s b4)
        ∧ AnswersBytes (.decRound r b) s b4

/-- R162. `DecRound` is not the inverse of `EncRound` for the same round: with `final = 1` their composition is the
expression of the rule, and for some state and round key it is not the state. The spec derives this itself: "[derived: from
rules R160 and R161]". -/
def Obligations.DecRoundDoesNotUndoEncRound : Prop :=
  (∀ (s : StateMatrix) (k : RoundKey),
      aesDecryptRound (aesEncryptRound s k true) k true
        = addRoundKey (invSubBytes (invShiftRows (addRoundKey (shiftRows (subBytes s)) k))) k)
    ∧ ∃ (s : StateMatrix) (k : RoundKey), aesDecryptRound (aesEncryptRound s k true) k true ≠ s

/-! ## Unspecified contents -/

/-- R25, R26, R33. The contents that the spec leaves unspecified cannot be observed: two machines that differ in `KEY`,
`KSZ` and `W` while `KEY_VALID` is 0, or in `W` beyond the schedule, or in how often they have drawn free values, run on
alike, response for response, for any number of steps. The draw counter and the free values are the model's (log entry 2). -/
def Obligations.UnspecifiedContentsAreNeverObserved : Prop :=
  ∀ (n : Nat) (s s' : State), Indistinguishable s s' →
    ∃ t t' : State, Sys2Proof.core.run n s = .next t ∧ Sys2Proof.core.run n s' = .next t' ∧ Indistinguishable t t'

/-! ## The ports -/

/-- R270. A reset edge puts the core in the reset state, whatever it held and whatever the other pins carry; `rsp_valid`
is 0 while `rst` is asserted; in the cycle after, `cmd_ready` is 1 and `rsp_valid` is 0; the registers whose contents are
unspecified show no value. -/
def Obligations.ResetEdgeGivesTheResetState : Prop :=
  ∀ (inp : PortIn) (s : State) (free : FreePins), inp.rst = true →
    (portOutputs true free s).rspValid = false
      ∧ ∃ t, clock inp s = .next t ∧ t.keyValid = false ∧ t.phase = .idle
          ∧ t.coreView = { key := none, ksz := none, keyValid := false, w := none }
          ∧ (portOutputs false free t).cmdReady = true ∧ (portOutputs false free t).rspValid = false

/-- R271. A command in flight at a reset edge, or a response that waits, gives the host no response, and no key is usable
afterwards: every keyed command then ends with E_NO_KEY. That reset wins over the taking is log entry 6. -/
def Obligations.ResetAbortsTheCommandInFlight : Prop :=
  ∀ (s : State) (rdy : Bool), ∃ t, cycle true rdy s = .next t
    ∧ t.allResponses = s.allResponses ∧ t.phase = .idle
    ∧ ∀ i : Instr, keyedOp i.opcode = true → AnswersError i t .noKey

/-- R287. A reset closes the run, so that a run with a reset is two runs: the first keeps its responses and the command in
flight, which has none, and counts as ended only if it had ended before; the second starts without responses. Four
clauses are the model's choice and no words of R287 (log entry 6): that a reset before any command of a run closes nothing;
that the host still holds the command in flight; that a run closed between two commands, all of its own answered, counts as
not ended because the host still holds commands; and that a run closed in IDLE has no command in flight, even if the host
offers one on that edge. -/
def Obligations.ResetSplitsTheRun : Prop :=
  ∀ (s : State) (rdy : Bool), ∃ t, cycle true rdy s = .next t
    ∧ t.responses = [] ∧ t.pending = s.pending
    ∧ (s.phase = .idle → s.responses = [] → t.pastRuns = s.pastRuns)
    ∧ (s.phase ≠ .idle ∨ s.responses ≠ [] →
        ∃ run, t.pastRuns = s.pastRuns ++ [run] ∧ run.responses = s.responses
          ∧ (run.ended = true ↔ s.RunEnded)
          ∧ (s.phase = .idle → run.inFlight = none)
          ∧ (∀ c left, s.phase = .busy c left → run.inFlight = some c)
          ∧ ∀ r c cs, s.phase = .respond r → s.pending = c :: cs → run.inFlight = some c)

/-- R240, R277 to R279. The handshake. Without reset a command is accepted on the edge with `cmd_valid` and `cmd_ready`, and
its word and data are sampled there; a response stands on the pins, its status as one of the five values of R240, is held
unchanged until it is taken, and is taken on the edge with `rsp_valid` and `rsp_ready`. In BUSY neither side moves. -/
def Obligations.HandshakeOfBothPorts : Prop :=
  (∀ (inp : PortIn) (s : State) (free : FreePins), inp.rst = false →
    (s.phase = .idle →
        (portOutputs false free s).cmdReady = true ∧ (portOutputs false free s).rspValid = false
          ∧ (inp.cmdValid = false → clock inp s = .next s)
          ∧ (inp.cmdValid = true →
              ∃ left, 1 ≤ left
                ∧ clock inp s
                    = .next { s with
                        phase := .busy { cw := inp.cmdWord, cdata := unpackBus inp.cmdData } left }))
      ∧ ∀ r, s.phase = .respond r →
          portOutputs false free s
              = { cmdReady := false, rspValid := true, rspStatus := statusValue r.status, rspKsz := r.rksz,
                  rspData := packBus r.rdata }
            ∧ (inp.rspReady = false → clock inp s = .next s)
            ∧ (inp.rspReady = true → clock inp s = .next { s with phase := .idle }))
    ∧ ∀ (rst : Bool) (s : State) (free : FreePins) (c : Command) (left : Nat), s.phase = .busy c left →
        (portOutputs rst free s).cmdReady = false ∧ (portOutputs rst free s).rspValid = false

/-- R280. `cmd_ready = 0` in BUSY and RESPOND, with or without reset: from the acceptance of a command until its response has
been taken no edge accepts another, whatever the host offers. -/
def Obligations.OneOutstandingCommand : Prop :=
  ∀ (inp : PortIn) (s t : State) (free : FreePins), s.phase ≠ .idle → clock inp s = .next t →
    (portOutputs inp.rst free s).cmdReady = false
      ∧ ∀ c left, t.phase = .busy c left → s.phase = .busy c (left + 1)

/-- R281, R283. Without reset, an offered command is accepted on the first edge, the core is then BUSY for exactly its
latency, and it offers the response after that many more edges, whatever `rsp_ready` does meanwhile. What the latency is a
function of, and that BUSY lasts exactly that long, are log entry 5. -/
def Obligations.ResponseIsOfferedAfterItsLatency : Prop :=
  ∀ (s : State) (c : Command) (cs : List Command) (ready : List Bool), Issues s c cs →
    (1 ≤ ready.length → ready.length ≤ latencyOf s.params s.activeSize c.cw →
        ∃ t left, runCycles ready s = .next t ∧ t.phase = .busy c left)
      ∧ (ready.length = latencyOf s.params s.activeSize c.cw + 1 →
          ∃ t r, runCycles ready s = .next t ∧ t.phase = .respond r)

/-- R278. The transaction-level step is the whole path IDLE, BUSY, RESPOND, IDLE of the cycle-level machine: acceptance,
the latency (log entry 5), any wait of the host, and the edge on which it takes the response end in the state that `step` gives. -/
def Obligations.CyclesRefineTheStep : Prop :=
  ∀ (s : State) (c : Command) (cs : List Command) (ready : List Bool) (wait : Nat), Issues s c cs →
    ready.length = latencyOf s.params s.activeSize c.cw + 1 →
    runCycles (ready ++ List.replicate wait false ++ [true]) s = step s

/-- R281. A latency does not depend on `CDATA`, on the key or on the schedule: it is the same for the same command word
in states with the same parameters and `KEY_VALID` and, with a key, the same `KSZ`, and it is at least 1 (log entry 5). -/
def Obligations.LatencyIsDataIndependent : Prop :=
  ∀ (s s' : State) (c c' : Command), c.cw = c'.cw → s.params = s'.params → s.keyValid = s'.keyValid →
    (s.keyValid = true → s.ksz = s'.ksz) →
    ∃ left, 1 ≤ left ∧ (s.accept c).phase = .busy c left ∧ (s'.accept c').phase = .busy c' left

/-- R48. The bus: byte `k` of 32 bytes occupies bits 255-8k to 248-8k, and unpacking gives the bytes back. -/
def Obligations.BusPackingKeepsEveryByte : Prop :=
  ∀ d : Bytes32, unpackBus (packBus d) = d
    ∧ ∀ (k : Nat) (h : k < 32) (j : Nat), j < 8 → (packBus d).getLsbD (248 - 8 * k + j) = d[k].getLsbD j

/-- R256. A step of one instance leaves every other instance as it was, and steps its own as a single core. -/
def Obligations.InstancesAreIndependent : Prop :=
  ∀ (n : Nat) (cores cores' : List State), stepInstance n cores = .next cores' →
    cores'.length = cores.length
      ∧ (∀ m, m ≠ n → cores'[m]? = cores[m]?)
      ∧ ∀ s, cores[n]? = some s → ∃ t, step s = .next t ∧ cores'[n]? = some t

/-! ## The assembler -/

/-- R73. `.CMD` is the only way to write a reserved or illegal command word: any other line that assembles gives a
command that decodes, on a core with the unit commands, to the instruction the line names. How blanks are read is log entry
8. -/
def Obligations.OnlyRawLinesCanBeIllegal : Prop :=
  ∀ (line : List Char) (op : AsmOp) (args : List (List Char)) (c : Command), parseLine line = some (op, args) →
    assembleLine line = some c → op ≠ .rawCommand →
    ∃ i, assembleInstr op args = some i ∧ decode { unitCmds := true } c = .cmd i

/-- R74. NEW and SET_KEY are the same and expand to the LOAD_KEY that the length of the key chooses, and to nothing for
any other length; KEY is READ_KEY. -/
def Obligations.PseudoInstructionsExpand : Prop :=
  (∀ args, assembleOp .newKey args = assembleOp .setKey args)
    ∧ (∀ (k : List Char) (bs : List Byte), parseHexBytes k = some bs →
        (bs.length = 16 → assembleOp .newKey [k] = assembleOp (.loadKey .aes128) [k])
          ∧ (bs.length = 24 → assembleOp .newKey [k] = assembleOp (.loadKey .aes192) [k])
          ∧ (bs.length = 32 → assembleOp .newKey [k] = assembleOp (.loadKey .aes256) [k])
          ∧ (bs.length ≠ 16 → bs.length ≠ 24 → bs.length ≠ 32 → assembleOp .newKey [k] = none))
    ∧ ∀ args, assembleOp .key args = assembleOp .readKey args
end

