-- ==== Sys2Proof/Laws/Bytes.lean ====
section
/-! SUPPORT. One lemma per byte-level definition: what it holds at each index. -/

set_option autoImplicit false

namespace Sys2Proof

theorem pad32_getElem {n : Nat} (v : Vector Byte n) (k : Nat) (h : k < 32) :
    (pad32 v)[k] = if h' : k < n then v[k] else 0 := by
  simp [pad32]

theorem pad32_getElem_of_lt {n : Nat} (v : Vector Byte n) (k : Nat) (h : k < n) (h32 : k < 32) :
    (pad32 v)[k] = v[k] := by
  simp [pad32_getElem, h]

theorem pad32_getElem_of_le {n : Nat} (v : Vector Byte n) (k : Nat) (h : n ≤ k) (h32 : k < 32) :
    (pad32 v)[k] = 0 := by
  simp [pad32_getElem, Nat.not_lt.mpr h]

theorem takeBytes_getElem (n : Nat) (d : Bytes32) (k : Nat) (h : k < n) (h32 : k < 32) :
    (takeBytes n d)[k] = d[k] := by
  simp [takeBytes, h32]

/-- An operand of at most 32 bytes survives padding. -/
theorem takeBytes_pad32 {n : Nat} (hn : n ≤ 32) (v : Vector Byte n) : takeBytes n (pad32 v) = v := by
  apply Vector.ext
  intro k hk
  rw [takeBytes_getElem n _ k hk (by omega), pad32_getElem_of_lt v k hk]

theorem xorWord_getElem (a b : Word) (k : Nat) (h : k < 4) : (xorWord a b)[k] = a[k] ^^^ b[k] := by
  simp [xorWord]

theorem KeySize.schedLen_le (z : KeySize) : z.schedLen ≤ 60 := by cases z <;> decide

theorem KeySize.nk_le_schedLen (z : KeySize) : z.nk ≤ z.schedLen := by cases z <;> decide

theorem KeySize.nk_pos (z : KeySize) : 0 < z.nk := by cases z <;> decide

@[simp] theorem KeySize.ofCode_code (z : KeySize) : KeySize.ofCode? z.code = some z := by cases z <;> decide

namespace Machine

@[simp] theorem StateMatrix.get_ofFn (f : Fin 4 → Fin 4 → Byte) (r c : Fin 4) :
    (StateMatrix.ofFn f).get r c = f r c := by
  simp [StateMatrix.ofFn, StateMatrix.get]

/-- Two matrices with the same entries are equal. -/
theorem StateMatrix.ext_get {s t : StateMatrix} (h : ∀ r c, s.get r c = t.get r c) : s = t := by
  cases s with | mk a => cases t with | mk b =>
  congr 1
  apply Vector.ext
  intro r hr
  apply Vector.ext
  intro c hc
  exact h ⟨r, hr⟩ ⟨c, hc⟩

@[simp] theorem loadState_get (b : Block) (r c : Fin 4) : (loadState b).get r c = b[r.val + 4 * c.val] := by
  simp [loadState]

theorem storeState_getElem (s : StateMatrix) (k : Nat) (h : k < 16) :
    (storeState s)[k] = s.get ⟨k % 4, by omega⟩ ⟨k / 4, by omega⟩ := by
  simp [storeState]

@[simp] theorem column_getElem (s : StateMatrix) (c : Fin 4) (r : Fin 4) : (s.column c)[r] = s.get r c := by
  match r with
  | 0 => rfl
  | 1 => rfl
  | 2 => rfl
  | 3 => rfl

@[simp] theorem mapColumns_get (f : Word → Word) (s : StateMatrix) (r c : Fin 4) :
    (s.mapColumns f).get r c = (f (s.column c))[r] := by
  simp [StateMatrix.mapColumns]

theorem roundKey_getElem (w : ScheduleStore) (r : Fin 15) (c : Nat) (h : c < 4) :
    (roundKey w r)[c] = w[4 * r.val + c] := by
  simp [roundKey]

/-- Within the schedule the store holds it. -/
theorem storeSchedule_getElem (ws : List Word) (rest : Nat → Word) (i : Nat) (h60 : i < 60) (h : i < ws.length) :
    (storeSchedule ws rest)[i] = ws[i] := by
  simp [storeSchedule, h]

/-- Beyond the schedule the store holds the rest. -/
theorem storeSchedule_getElem_rest (ws : List Word) (rest : Nat → Word) (i : Nat) (h60 : i < 60)
    (h : ws.length ≤ i) : (storeSchedule ws rest)[i] = rest i := by
  simp [storeSchedule, h]

theorem expandWords_length (z : KeySize) (n : Nat) (ws : List Word) : (expandWords z n ws).length = ws.length + n := by
  induction n generalizing ws with
  | zero => rfl
  | succ n ih => rw [expandWords, ih]; simp; omega

/-- Expansion never changes a word it already has. -/
theorem expandWords_getElem? (z : KeySize) (n : Nat) (ws : List Word) (i : Nat) (h : i < ws.length) :
    (expandWords z n ws)[i]? = ws[i]? := by
  induction n generalizing ws with
  | zero => rfl
  | succ n ih => rw [expandWords, ih _ (by simp; omega), List.getElem?_append_left h]

theorem keyExpansion_length (z : KeySize) (kb : Bytes32) : (keyExpansion z kb).length = z.schedLen := by
  have := z.nk_le_schedLen
  simp [keyExpansion, expandWords_length]
  omega

end Machine

end Sys2Proof
end

