-- ==== Sys2Proof/Laws/Encoding.lean ====
section
/-! SUPPORT. The fields of a packed command word are the ones it was packed from. -/

set_option autoImplicit false

namespace Sys2Proof

/-- Bit by bit, a packed word is its four fields (R61). -/
theorem packWord_getLsbD (op : BitVec 5) (ksz : BitVec 2) (arg : Byte) (i : Nat) :
    (packWord op ksz arg).getLsbD i
      = if i < 5 then op.getLsbD i
        else if i - 5 < 2 then ksz.getLsbD (i - 5)
        else if i - 5 - 2 < 1 then (0 : BitVec 1).getLsbD (i - 5 - 2)
        else arg.getLsbD (i - 5 - 2 - 1) := by
  change ((arg ++ (0 : BitVec 1) ++ ksz ++ op : BitVec (8 + 1 + 2 + 5))).getLsbD i = _
  rw [BitVec.getLsbD_append, BitVec.getLsbD_append, BitVec.getLsbD_append]

@[simp] theorem opField_packWord (op : BitVec 5) (ksz : BitVec 2) (arg : Byte) :
    opField (packWord op ksz arg) = op := by
  apply BitVec.eq_of_getLsbD_eq
  intro i hi
  rw [opField, BitVec.getLsbD_extractLsb', Nat.zero_add, packWord_getLsbD, if_pos hi]
  simp [hi]

@[simp] theorem kszField_packWord (op : BitVec 5) (ksz : BitVec 2) (arg : Byte) :
    kszField (packWord op ksz arg) = ksz := by
  apply BitVec.eq_of_getLsbD_eq
  intro i hi
  rw [kszField, BitVec.getLsbD_extractLsb', packWord_getLsbD, if_neg (by omega), if_pos (by omega)]
  simp [hi]

@[simp] theorem rsvField_packWord (op : BitVec 5) (ksz : BitVec 2) (arg : Byte) :
    rsvField (packWord op ksz arg) = 0 := by
  apply BitVec.eq_of_getLsbD_eq
  intro i hi
  rw [rsvField, BitVec.getLsbD_extractLsb', packWord_getLsbD, if_neg (by omega), if_neg (by omega), if_pos (by omega)]
  simp

@[simp] theorem argField_packWord (op : BitVec 5) (ksz : BitVec 2) (arg : Byte) :
    argField (packWord op ksz arg) = arg := by
  apply BitVec.eq_of_getLsbD_eq
  intro i hi
  have e : 8 + i - 5 - 2 - 1 = i := by omega
  rw [argField, BitVec.getLsbD_extractLsb', packWord_getLsbD, if_neg (by omega), if_neg (by omega), if_neg (by omega), e]
  simp [hi]

@[simp] theorem Opcode.ofCode_code (op : Opcode) : Opcode.ofCode? op.code = some op := by cases op <;> rfl

/-- A code that has an opcode is that opcode's code. -/
theorem Opcode.code_of_ofCode (c : BitVec 5) (op : Opcode) (h : Opcode.ofCode? c = some op) : op.code = c := by
  have all : ∀ c : BitVec 5, ∀ op ∈ Opcode.ofCode? c, op.code = c := by decide
  exact all c op h

end Sys2Proof
end

