-- ==== Sys2Proof/Laws/State.lean ====
section
/-! SUPPORT. What each update of the state leaves in each field. -/

set_option autoImplicit false

namespace Sys2Proof.Machine

variable (s : State)

/-! `offer`. -/

@[simp] theorem offer_params (r : Response) : (s.offer r).params = s.params := rfl
@[simp] theorem offer_key (r : Response) : (s.offer r).key = s.key := rfl
@[simp] theorem offer_ksz (r : Response) : (s.offer r).ksz = s.ksz := rfl
@[simp] theorem offer_keyValid (r : Response) : (s.offer r).keyValid = s.keyValid := rfl
@[simp] theorem offer_w (r : Response) : (s.offer r).w = s.w := rfl
@[simp] theorem offer_phase (r : Response) : (s.offer r).phase = .respond r := rfl
@[simp] theorem offer_pending (r : Response) : (s.offer r).pending = s.pending := rfl
@[simp] theorem offer_responses (r : Response) : (s.offer r).responses = s.responses := rfl
@[simp] theorem offer_pastRuns (r : Response) : (s.offer r).pastRuns = s.pastRuns := rfl
@[simp] theorem offer_draws (r : Response) : (s.offer r).draws = s.draws := rfl

/-! `installKey`. -/

@[simp] theorem installKey_params (z : KeySize) (kb : Bytes32) : (s.installKey z kb).params = s.params := rfl
@[simp] theorem installKey_key (z : KeySize) (kb : Bytes32) : (s.installKey z kb).key = kb := rfl
@[simp] theorem installKey_ksz (z : KeySize) (kb : Bytes32) : (s.installKey z kb).ksz = z := rfl
@[simp] theorem installKey_keyValid (z : KeySize) (kb : Bytes32) : (s.installKey z kb).keyValid = true := rfl
@[simp] theorem installKey_w (z : KeySize) (kb : Bytes32) : (s.installKey z kb).w = storeSchedule (aesKeyExpand z kb) (Config.freeScheduleWord s.draws) := rfl
@[simp] theorem installKey_phase (z : KeySize) (kb : Bytes32) : (s.installKey z kb).phase = s.phase := rfl
@[simp] theorem installKey_pending (z : KeySize) (kb : Bytes32) : (s.installKey z kb).pending = s.pending := rfl
@[simp] theorem installKey_responses (z : KeySize) (kb : Bytes32) : (s.installKey z kb).responses = s.responses := rfl
@[simp] theorem installKey_pastRuns (z : KeySize) (kb : Bytes32) : (s.installKey z kb).pastRuns = s.pastRuns := rfl
@[simp] theorem installKey_draws (z : KeySize) (kb : Bytes32) : (s.installKey z kb).draws = s.draws + 1 := rfl

/-! `takeResponse`. -/

@[simp] theorem takeResponse_params (r : Response) : (s.takeResponse r).params = s.params := rfl
@[simp] theorem takeResponse_key (r : Response) : (s.takeResponse r).key = s.key := rfl
@[simp] theorem takeResponse_ksz (r : Response) : (s.takeResponse r).ksz = s.ksz := rfl
@[simp] theorem takeResponse_keyValid (r : Response) : (s.takeResponse r).keyValid = s.keyValid := rfl
@[simp] theorem takeResponse_w (r : Response) : (s.takeResponse r).w = s.w := rfl
@[simp] theorem takeResponse_phase (r : Response) : (s.takeResponse r).phase = .idle := rfl
@[simp] theorem takeResponse_pending (r : Response) : (s.takeResponse r).pending = s.pending.tail := rfl
@[simp] theorem takeResponse_responses (r : Response) : (s.takeResponse r).responses = s.responses ++ [r] := rfl
@[simp] theorem takeResponse_pastRuns (r : Response) : (s.takeResponse r).pastRuns = s.pastRuns := rfl
@[simp] theorem takeResponse_draws (r : Response) : (s.takeResponse r).draws = s.draws := rfl

/-! `resetCore`. -/

@[simp] theorem resetCore_params : (s.resetCore).params = s.params := rfl
@[simp] theorem resetCore_key : (s.resetCore).key = Config.freeKey s.draws := rfl
@[simp] theorem resetCore_ksz : (s.resetCore).ksz = Config.freeKsz s.draws := rfl
@[simp] theorem resetCore_keyValid : (s.resetCore).keyValid = false := rfl
@[simp] theorem resetCore_w : (s.resetCore).w = Vector.ofFn fun i : Fin 60 => Config.freeScheduleWord s.draws i.val := rfl
@[simp] theorem resetCore_phase : (s.resetCore).phase = .idle := rfl
@[simp] theorem resetCore_pending : (s.resetCore).pending = s.pending := rfl
@[simp] theorem resetCore_responses : (s.resetCore).responses = s.responses := rfl
@[simp] theorem resetCore_pastRuns : (s.resetCore).pastRuns = s.pastRuns := rfl
@[simp] theorem resetCore_draws : (s.resetCore).draws = s.draws + 1 := rfl

/-! `accept`. -/

@[simp] theorem accept_params (c : Command) : (s.accept c).params = s.params := rfl
@[simp] theorem accept_key (c : Command) : (s.accept c).key = s.key := rfl
@[simp] theorem accept_ksz (c : Command) : (s.accept c).ksz = s.ksz := rfl
@[simp] theorem accept_keyValid (c : Command) : (s.accept c).keyValid = s.keyValid := rfl
@[simp] theorem accept_w (c : Command) : (s.accept c).w = s.w := rfl
@[simp] theorem accept_phase (c : Command) : (s.accept c).phase = .busy c (latencyOf s.params s.activeSize c.cw) := rfl
@[simp] theorem accept_pending (c : Command) : (s.accept c).pending = s.pending := rfl
@[simp] theorem accept_responses (c : Command) : (s.accept c).responses = s.responses := rfl
@[simp] theorem accept_pastRuns (c : Command) : (s.accept c).pastRuns = s.pastRuns := rfl
@[simp] theorem accept_draws (c : Command) : (s.accept c).draws = s.draws := rfl

/-! `placeCommand`. -/

@[simp] theorem placeCommand_params (c : Command) : (placeCommand c s).params = s.params := rfl
@[simp] theorem placeCommand_key (c : Command) : (placeCommand c s).key = s.key := rfl
@[simp] theorem placeCommand_ksz (c : Command) : (placeCommand c s).ksz = s.ksz := rfl
@[simp] theorem placeCommand_keyValid (c : Command) : (placeCommand c s).keyValid = s.keyValid := rfl
@[simp] theorem placeCommand_w (c : Command) : (placeCommand c s).w = s.w := rfl
@[simp] theorem placeCommand_phase (c : Command) : (placeCommand c s).phase = .idle := rfl
@[simp] theorem placeCommand_pending (c : Command) : (placeCommand c s).pending = c :: s.pending.tail := rfl
@[simp] theorem placeCommand_responses (c : Command) : (placeCommand c s).responses = s.responses := rfl
@[simp] theorem placeCommand_pastRuns (c : Command) : (placeCommand c s).pastRuns = s.pastRuns := rfl
@[simp] theorem placeCommand_draws (c : Command) : (placeCommand c s).draws = s.draws := rfl

/-! `closeRun`, at a reset from `s` to `t`. -/

@[simp] theorem closeRun_params (t : State) : (closeRun s t).params = t.params := by unfold closeRun; split <;> rfl
@[simp] theorem closeRun_key (t : State) : (closeRun s t).key = t.key := by unfold closeRun; split <;> rfl
@[simp] theorem closeRun_ksz (t : State) : (closeRun s t).ksz = t.ksz := by unfold closeRun; split <;> rfl
@[simp] theorem closeRun_keyValid (t : State) : (closeRun s t).keyValid = t.keyValid := by unfold closeRun; split <;> rfl
@[simp] theorem closeRun_w (t : State) : (closeRun s t).w = t.w := by unfold closeRun; split <;> rfl
@[simp] theorem closeRun_phase (t : State) : (closeRun s t).phase = t.phase := by unfold closeRun; split <;> rfl
@[simp] theorem closeRun_pending (t : State) : (closeRun s t).pending = t.pending := by unfold closeRun; split <;> rfl
@[simp] theorem closeRun_draws (t : State) : (closeRun s t).draws = t.draws := by unfold closeRun; split <;> rfl
theorem closeRun_responses (t : State) : (closeRun s t).responses = if s.runBegun then [] else t.responses := by
  unfold closeRun; split <;> rfl
theorem closeRun_pastRuns (t : State) :
    (closeRun s t).pastRuns = if s.runBegun then t.pastRuns ++ [s.closedRun] else t.pastRuns := by
  unfold closeRun; split <;> rfl

@[simp] theorem offer_activeSize (r : Response) : (s.offer r).activeSize = s.activeSize := rfl
@[simp] theorem takeResponse_activeSize (r : Response) : (s.takeResponse r).activeSize = s.activeSize := rfl
@[simp] theorem accept_activeSize (c : Command) : (s.accept c).activeSize = s.activeSize := rfl
@[simp] theorem installKey_activeSize (z : KeySize) (kb : Bytes32) : (s.installKey z kb).activeSize = some z := rfl
@[simp] theorem resetCore_activeSize : s.resetCore.activeSize = none := rfl

/-- The whole state is its ten fields. -/
theorem State.ext_fields {s t : State} (h1 : s.params = t.params) (h2 : s.key = t.key) (h3 : s.ksz = t.ksz)
    (h4 : s.keyValid = t.keyValid) (h5 : s.w = t.w) (h6 : s.phase = t.phase) (h7 : s.pending = t.pending)
    (h8 : s.responses = t.responses) (h9 : s.draws = t.draws) (h10 : s.pastRuns = t.pastRuns) :
    s = t := by
  cases s; cases t; simp_all

end Sys2Proof.Machine
end

