-- ==== Sys2Proof/Laws/Ops.lean ====
section
/-! SUPPORT. One spec lemma per shared operation of Machine/Ops.lean: what it answers, in each of its cases. -/

set_option autoImplicit false

namespace Sys2Proof.Machine

variable (s : State)

@[simp] theorem andThen_next (t : State) (f : State → Result) : andThen (.next t) f = f t := rfl
@[simp] theorem andThen_fault (r : Fault) (f : State → Result) : andThen (.fault r) f = .fault r := rfl
@[simp] theorem andThen_refused (r : Refusal) (f : State → Result) : andThen (.refused r) f = .refused r := rfl

/-- A composed result is a next state exactly when both parts are. -/
theorem andThen_eq_next {o : Result} {f : State → Result} {t : State} (h : andThen o f = .next t) :
    ∃ u, o = .next u ∧ f u = .next t := by
  cases o with
  | next u => exact ⟨u, rfl, h⟩
  | fault r => cases h
  | refused r => cases h

theorem respond_eq (st : Status) (rksz : BitVec 2) (d : Bytes32) :
    respond st rksz d s = .next (s.offer { status := st, rksz := rksz, rdata := d }) := rfl

theorem raise_eq (e : Status) : raise e s = .next (s.offer { status := e, rksz := 0, rdata := zero32 }) := rfl

theorem respondBytes_eq {n : Nat} (v : Vector Byte n) :
    respondBytes v s = .next (s.offer { status := .ok, rksz := 0, rdata := pad32 v }) := rfl

theorem respondTransform_eq (f : StateMatrix → StateMatrix) (b : Block) :
    respondTransform f b s
      = .next (s.offer { status := .ok, rksz := 0, rdata := pad32 (storeState (f (loadState b))) }) := rfl

theorem loadKey_eq (z : KeySize) (kb : Bytes32) :
    loadKey z kb s = .next ((s.installKey z kb).offer { status := .ok, rksz := 0, rdata := zero32 }) := rfl

variable {s}

theorem readKeyReg_valid (h : s.keyValid = true) (k : Bytes32 → Result) : readKeyReg s k = k s.key := by
  simp [readKeyReg, h]

theorem readKszReg_valid (h : s.keyValid = true) (k : KeySize → Result) : readKszReg s k = k s.ksz := by
  simp [readKszReg, h]

theorem readSchedule_valid (h : s.keyValid = true) (k : ScheduleStore → Result) : readSchedule s k = k s.w := by
  simp [readSchedule, h]

theorem readScheduleWord_valid (h : s.keyValid = true) {z : KeySize} {i : Nat} (hi : i < z.schedLen)
    (k : Word → Result) :
    readScheduleWord z i s k = k (s.w[i]'(Nat.lt_of_lt_of_le hi z.schedLen_le)) := by
  have : i < 60 := Nat.lt_of_lt_of_le hi z.schedLen_le
  simp [readScheduleWord, readSchedule_valid h, this, hi]

theorem readRoundKey_valid (h : s.keyValid = true) {z : KeySize} {r : Nat} (hr : r ≤ z.nr) (k : RoundKey → Result) :
    readRoundKey z r s k = k (roundKey s.w ⟨r, Nat.lt_of_le_of_lt hr z.nr_lt⟩) := by
  simp [readRoundKey, readSchedule_valid h, hr]

/-- A keyed command with a key goes on with the active key size. -/
theorem keyed_valid (h : s.keyValid = true) (k : KeySize → Result) : keyed s k = k s.ksz := by
  simp [keyed, h, readKszReg_valid h]

/-- A keyed command without a key raises E_NO_KEY. -/
theorem keyed_noKey (h : s.keyValid = false) (k : KeySize → Result) : keyed s k = raise .noKey s := by
  simp [keyed, h]

/-- An indexed command with a key and an index in range goes on. -/
theorem indexed_valid (h : s.keyValid = true) {op : Opcode} {a : Byte} (hr : inRange op a s.ksz = true)
    (k : KeySize → Result) : indexed op a s k = k s.ksz := by
  simp [indexed, keyed_valid h, hr]

/-- An indexed command with a key and an index out of range raises E_RANGE. -/
theorem indexed_range (h : s.keyValid = true) {op : Opcode} {a : Byte} (hr : inRange op a s.ksz = false)
    (k : KeySize → Result) : indexed op a s k = raise .range s := by
  simp [indexed, keyed_valid h, hr]

/-- An indexed command without a key raises E_NO_KEY, whatever its index. -/
theorem indexed_noKey (h : s.keyValid = false) (op : Opcode) (a : Byte) (k : KeySize → Result) :
    indexed op a s k = raise .noKey s := keyed_noKey h _

/-- Everything a keyed command can do. -/
theorem keyed_cases (s : State) (k : KeySize → Result) :
    (s.keyValid = false ∧ keyed s k = raise .noKey s) ∨ (s.keyValid = true ∧ keyed s k = k s.ksz) := by
  cases h : s.keyValid with
  | false => exact .inl ⟨rfl, keyed_noKey h k⟩
  | true => exact .inr ⟨rfl, keyed_valid h k⟩

/-- Everything an indexed command can do. -/
theorem indexed_cases (s : State) (op : Opcode) (a : Byte) (k : KeySize → Result) :
    (s.keyValid = false ∧ indexed op a s k = raise .noKey s)
      ∨ (s.keyValid = true ∧ inRange op a s.ksz = false ∧ indexed op a s k = raise .range s)
      ∨ (s.keyValid = true ∧ inRange op a s.ksz = true ∧ indexed op a s k = k s.ksz) := by
  cases h : s.keyValid with
  | false => exact .inl ⟨rfl, indexed_noKey h op a k⟩
  | true =>
    cases hr : inRange op a s.ksz with
    | false => exact .inr (.inl ⟨rfl, rfl, indexed_range h hr k⟩)
    | true => exact .inr (.inr ⟨rfl, rfl, indexed_valid h hr k⟩)

/-- The key bytes and the schedule that a key load leaves in `W`, for the indices of the schedule (R26). -/
theorem installKey_scheduleWord (s : State) (z : KeySize) (kb : Bytes32) (i : Nat) (h : i < z.schedLen) :
    (s.installKey z kb).w[i]'(Nat.lt_of_lt_of_le h z.schedLen_le)
      = (keyExpansion z kb)[i]'(by rw [keyExpansion_length]; exact h) :=
  storeSchedule_getElem _ _ _ _ (by rw [aesKeyExpand, keyExpansion_length]; exact h)

/-- A response on offer is taken. -/
@[simp] theorem deliver_offer (s : State) (r : Response) : deliver (s.offer r) = s.takeResponse r := rfl

end Sys2Proof.Machine
end

