-- ==== Sys2Proof/Laws/PerInstr.lean ====
section
/-! SUPPORT. Statements about every instruction as syntax, one lemma per constructor of `Instr`. -/

set_option autoImplicit false

namespace Sys2Proof.Laws.UnusedFieldsZero

/-- R61, R62: in the word of an instruction the reserved bit is 0, and so is each field its opcode does not read. -/
def Statement (i : Instr) : Prop :=
  rsvField (encode i).cw = 0
    ∧ (i.opcode ≠ .loadKey → kszField (encode i).cw = 0)
    ∧ (i.opcode.takesArg = false → argField (encode i).cw = 0)

/-- What the three fields of any instruction's word are. -/
theorem of_bits (i : Instr) (hk : i.opcode ≠ .loadKey → i.kszBits = 0) (ha : i.opcode.takesArg = false → i.argBits = 0) :
    Statement i := by
  simpa [Statement, encode] using And.intro hk ha

theorem loadKey128 (key : Vector Byte 16) : Statement (.loadKey128 key) := of_bits _ (fun h => absurd rfl h) fun _ => rfl
theorem loadKey192 (key : Vector Byte 24) : Statement (.loadKey192 key) := of_bits _ (fun h => absurd rfl h) fun _ => rfl
theorem loadKey256 (key : Bytes32) : Statement (.loadKey256 key) := of_bits _ (fun h => absurd rfl h) fun _ => rfl
theorem readKey : Statement .readKey := of_bits _ (fun _ => rfl) fun _ => rfl
theorem encrypt (blk : Block) : Statement (.encrypt blk) := of_bits _ (fun _ => rfl) fun _ => rfl
theorem decrypt (blk : Block) : Statement (.decrypt blk) := of_bits _ (fun _ => rfl) fun _ => rfl
theorem readSchedWord (i : Byte) : Statement (.readSchedWord i) := of_bits _ (fun _ => rfl) fun h => nomatch h
theorem sbox (b : Byte) : Statement (.sbox b) := of_bits _ (fun _ => rfl) fun h => nomatch h
theorem invSbox (b : Byte) : Statement (.invSbox b) := of_bits _ (fun _ => rfl) fun h => nomatch h
theorem xtime (b : Byte) : Statement (.xtime b) := of_bits _ (fun _ => rfl) fun h => nomatch h
theorem subBytes (blk : Block) : Statement (.subBytes blk) := of_bits _ (fun _ => rfl) fun _ => rfl
theorem invSubBytes (blk : Block) : Statement (.invSubBytes blk) := of_bits _ (fun _ => rfl) fun _ => rfl
theorem shiftRows (blk : Block) : Statement (.shiftRows blk) := of_bits _ (fun _ => rfl) fun _ => rfl
theorem invShiftRows (blk : Block) : Statement (.invShiftRows blk) := of_bits _ (fun _ => rfl) fun _ => rfl
theorem mixColumns (blk : Block) : Statement (.mixColumns blk) := of_bits _ (fun _ => rfl) fun _ => rfl
theorem invMixColumns (blk : Block) : Statement (.invMixColumns blk) := of_bits _ (fun _ => rfl) fun _ => rfl
theorem addRoundKey (r : Byte) (blk : Block) : Statement (.addRoundKey r blk) := of_bits _ (fun _ => rfl) fun h => nomatch h
theorem encRound (r : Byte) (blk : Block) : Statement (.encRound r blk) := of_bits _ (fun _ => rfl) fun h => nomatch h
theorem decRound (r : Byte) (blk : Block) : Statement (.decRound r blk) := of_bits _ (fun _ => rfl) fun h => nomatch h

end Sys2Proof.Laws.UnusedFieldsZero
end

