-- ==== Sys2Proof/Laws/Port.lean ====
section
/-! SUPPORT. One spec lemma per function of the port protocol: the pins, the edge under reset, and the host's moves. -/

set_option autoImplicit false

namespace Sys2Proof.Machine

variable (s : State)

/-- The host's pins carry the reset it is given. -/
@[simp] theorem hostPins_rst (rst rdy : Bool) : (hostPins rst rdy s).rst = rst := by
  unfold hostPins
  cases s.isIdle <;> cases s.pending <;> rfl

/-- The host's pins carry the `rsp_ready` it is given. -/
@[simp] theorem hostPins_rspReady (rst rdy : Bool) : (hostPins rst rdy s).rspReady = rdy := by
  unfold hostPins
  cases s.isIdle <;> cases s.pending <;> rfl

/-- R278, R280: when the core is ready. -/
theorem portOutputs_cmdReady (rst : Bool) (free : FreePins) :
    (portOutputs rst free s).cmdReady = (s.isIdle && (!rst || free.cmdReady)) := by
  unfold portOutputs
  cases s.phase <;> cases rst <;> rfl

/-- R270: an edge with `rst` is the reset, whatever else the pins carry. -/
theorem clock_reset (inp : PortIn) (h : inp.rst = true) : clock inp s = .next s.resetCore := by simp [clock, h]

/-- R271, R287: a cycle with `rst` resets the core and closes the host's run. -/
theorem cycle_reset (rdy : Bool) : cycle true rdy s = .next (closeRun s s.resetCore) := by
  simp [cycle, clock, hostMoves, andThen]

/-- R287: when no run has begun. -/
theorem runBegun_eq_false : s.runBegun = false ↔ s.phase = .idle ∧ s.responses = [] := by
  unfold State.runBegun State.isIdle
  cases s.phase <;> simp

/-- R287: the record of a closed run says that it had ended exactly when it had. -/
theorem closedRun_ended : s.closedRun.ended = true ↔ s.RunEnded := by
  unfold State.closedRun State.RunEnded State.isIdle
  cases s.phase <;> simp

/-- A closed run keeps the invariant of its responses. -/
theorem closedRun_wellFormed (h : ∀ r ∈ s.responses, r.WellFormed) : s.closedRun.WellFormed := by
  refine ⟨h, fun he => ?_⟩
  simp only [State.closedRun, State.inFlight, ((closedRun_ended s).mp he).1]

/-- R279: what the host's duty says. -/
theorem holdsOffer_iff (out : PortOut) (now nxt : PortIn) :
    holdsOffer out now nxt = true ↔
      (now.cmdValid = true → out.cmdReady = false →
        nxt.cmdValid = true ∧ nxt.cmdWord = now.cmdWord ∧ nxt.cmdData = now.cmdData) := by
  unfold holdsOffer
  cases now.cmdValid <;> cases out.cmdReady <;> simp [and_assoc]

/-- R271: closing a run loses no response and adds none. -/
theorem closeRun_allResponses (t : State) (hp : t.pastRuns = s.pastRuns) (hr : t.responses = s.responses) :
    (closeRun s t).allResponses = s.allResponses := by
  unfold State.allResponses closeRun
  split <;> simp [hp, hr, State.closedRun]

end Sys2Proof.Machine
end

