-- ==== Sys2Proof/Laws/Safety.lean ====
section
/-! SUPPORT. What a key load leaves meets the schedule invariant. -/

set_option autoImplicit false

namespace Sys2Proof.Machine

/-- R205, R26: with the key bytes padded by zeros, a key load establishes the schedule invariant. -/
theorem installKey_scheduleInv (s : State) (z : KeySize) (kb : Bytes32)
    (h : ∀ (k : Nat) (h : k < 32), 4 * z.nk ≤ k → kb[k] = 0) : (s.installKey z kb).ScheduleInv := by
  intro _
  refine ⟨h, fun i hi hl => ?_⟩
  have e := installKey_scheduleWord s z kb i hl
  simp only [installKey_key, installKey_ksz] at *
  rw [e, List.getElem?_eq_getElem]

/-- A response that is well formed may be taken. -/
theorem takeResponse_inv (s : State) (r : Response) (hs : s.ScheduleInv) (hr : r.WellFormed)
    (ho : ∀ q ∈ s.responses, q.WellFormed) (hp : ∀ p ∈ s.pastRuns, p.WellFormed) : (s.takeResponse r).Inv := by
  refine ⟨hs, trivial, fun q hq => ?_, hp⟩
  rw [takeResponse_responses, List.mem_append, List.mem_singleton] at hq
  rcases hq with hq | rfl
  · exact ho q hq
  · exact hr

end Sys2Proof.Machine
end

