-- ==== Sys2Proof/Tests/Slice0.lean ====
section
/-! SUPPORT. The model's own tests. Every expected value is a vector of 95_test_vectors.md, named at the test, or a word
written out from the encoding of 30_encoding.md R61 and R65. Last stand the witnesses: for each obligation with hypotheses,
a concrete state and operands that meet them. -/

set_option autoImplicit false
-- The tests are checked one after another: in parallel each takes a thread with a large stack.
set_option Elab.async false

namespace Sys2Proof.Tests

open Sys2Proof.Machine

/-- `n` bytes written as one hexadecimal number, byte 0 first (R9). -/
def hex (n x : Nat) : Vector Byte n := Vector.ofFn fun i : Fin n => BitVec.ofNat 8 (x / 2 ^ (8 * (n - 1 - i.val)))

/-- The last response the host holds after a result. -/
def lastResponse (o : Result) : Option Response :=
  match o with
  | .next s => s.responses.getLast?
  | .fault _ => none
  | .refused _ => none

/-- The state after one instruction from `s` whose response has been taken. -/
def afterInstr (i : Instr) (s : State) : State :=
  match exec i s with
  | .next t => deliver t
  | .fault _ => s
  | .refused _ => s

/-- The response to one command word with a data operand. -/
def respond1 (s : State) (cw : BitVec 16) (d : Bytes32) : Option Response :=
  lastResponse (step { s with pending := [{ cw := cw, cdata := d }] })

/-- The response that carries `n` bytes of data with OK. -/
def okBytes (n x : Nat) : Option Response := some { status := .ok, rksz := 0, rdata := pad32 (hex n x) }

/-- An error response. -/
def errorOf (e : Status) : Option Response := some { status := e, rksz := 0, rdata := zero32 }

/-- After LOAD_KEY.128 of section 8's first key. -/
def fips128 : State := afterInstr (.loadKey128 (hex 16 0x2b7e151628aed2a6abf7158809cf4f3c)) State.reset

/-- After LOAD_KEY.128 of section 8's second key. -/
def seq128 : State := afterInstr (.loadKey128 (hex 16 0x000102030405060708090a0b0c0d0e0f)) State.reset

/-- After LOAD_KEY.192 of section 8's third key. -/
def seq192 : State :=
  afterInstr (.loadKey192 (hex 24 0x000102030405060708090a0b0c0d0e0f1011121314151617)) State.reset

/-- After LOAD_KEY.256 of section 8's fourth key. -/
def seq256 : State :=
  afterInstr (.loadKey256 (hex 32 0x000102030405060708090a0b0c0d0e0f101112131415161718191a1b1c1d1e1f)) State.reset

/-- The block operand of most vectors. -/
def seqBlock : Bytes32 := pad32 (hex 16 0x00112233445566778899aabbccddeeff)

/-! Decode: words written out from R61 and R65, `ARG`, `RSV`, `KSZ`, `OP`. -/

theorem test_decode_loadKey128 :
    decodeTableWord 16 0b00000000_0_00_00001 = some (.loadKey128 (hex 16 0)) := by decide +kernel
theorem test_decode_loadKey192 :
    decodeTableWord 16 0b00000000_0_01_00001 = some (.loadKey192 (hex 24 0)) := by decide +kernel
theorem test_decode_loadKey256 :
    decodeTableWord 16 0b00000000_0_10_00001 = some (.loadKey256 (hex 32 0)) := by decide +kernel
theorem test_decode_readKey : decodeTableWord 16 0b00000000_0_00_00010 = some .readKey := by decide +kernel
theorem test_decode_encrypt : decodeTableWord 16 0b00000000_0_00_00011 = some (.encrypt (hex 16 0)) := by decide +kernel
theorem test_decode_decrypt : decodeTableWord 16 0b00000000_0_00_00100 = some (.decrypt (hex 16 0)) := by decide +kernel
theorem test_decode_readSchedWord :
    decodeTableWord 16 0b00101011_0_00_00101 = some (.readSchedWord 43) := by decide +kernel
theorem test_decode_sbox : decodeTableWord 16 0b01010011_0_00_01000 = some (.sbox 0x53) := by decide +kernel
theorem test_decode_invSbox : decodeTableWord 16 0b11101101_0_00_01001 = some (.invSbox 0xed) := by decide +kernel
theorem test_decode_xtime : decodeTableWord 16 0b10000000_0_00_01010 = some (.xtime 0x80) := by decide +kernel
theorem test_decode_subBytes : decodeTableWord 16 0b00000000_0_00_10000 = some (.subBytes (hex 16 0)) := by decide +kernel
theorem test_decode_invSubBytes :
    decodeTableWord 16 0b00000000_0_00_10001 = some (.invSubBytes (hex 16 0)) := by decide +kernel
theorem test_decode_shiftRows :
    decodeTableWord 16 0b00000000_0_00_10010 = some (.shiftRows (hex 16 0)) := by decide +kernel
theorem test_decode_invShiftRows :
    decodeTableWord 16 0b00000000_0_00_10011 = some (.invShiftRows (hex 16 0)) := by decide +kernel
theorem test_decode_mixColumns :
    decodeTableWord 16 0b00000000_0_00_10100 = some (.mixColumns (hex 16 0)) := by decide +kernel
theorem test_decode_invMixColumns :
    decodeTableWord 16 0b00000000_0_00_10101 = some (.invMixColumns (hex 16 0)) := by decide +kernel
theorem test_decode_addRoundKey :
    decodeTableWord 16 0b00001010_0_00_10110 = some (.addRoundKey 10 (hex 16 0)) := by decide +kernel
theorem test_decode_encRound :
    decodeTableWord 16 0b00000001_0_00_11000 = some (.encRound 1 (hex 16 0)) := by decide +kernel
theorem test_decode_decRound :
    decodeTableWord 16 0b00000000_0_00_11001 = some (.decRound 0 (hex 16 0)) := by decide +kernel

/-- V-DC-01, V-DC-06 to V-DC-08, V-DC-10, V-DC-11, V-DC-20, V-DC-24, V-DC-25, V-DC-28, V-DC-30. -/
theorem test_decode_illegal :
    ([0x0000, 0x0081, 0x00E1, 0x0161, 0x0022, 0x0102, 0x0110, 0x0D36, 0x0017, 0x001A, 0xFFFF] : List (BitVec 16)).all
      (fun cw => decodeWord Config.defaultParams cw == .illegal) = true := by decide +kernel

/-- V-DC-05. -/
theorem test_decode_badKeySize : decodeWord Config.defaultParams 0x0061 = .badKeySize := by decide +kernel

/-! WellFormed: its one check, on an ill-formed term (R8, R67(e)); the decoder agrees (V-FC-13). -/

theorem test_wellFormed_refuses_unit_command : Instr.wellFormed { unitCmds := false } (.sbox 0x53) = false := by decide
theorem test_wellFormed_keeps_facade_command : Instr.wellFormed { unitCmds := false } .readKey = true := by decide
theorem test_decode_unit_command_off : decodeWord { unitCmds := false } 0x5308 = .illegal := by decide +kernel

/-! The facade commands. -/

/-- V-SRC-09, V-CB-05: the last schedule word. -/
theorem test_loadKey128_schedule : fips128.w[43] = hex 4 0xb6630ca6 ∧ fips128.keyValid = true := by decide +kernel
/-- V-CB-26: the upper 16 bytes are ignored. -/
theorem test_loadKey128_ignores_upper :
    (match step { State.reset with
        pending := [{ cw := 0x0001,
                      cdata := hex 32 0x000102030405060708090a0b0c0d0e0fffffffffffffffffffffffffffffffff }] } with
      | .next t => decide (t.key = pad32 (hex 16 0x000102030405060708090a0b0c0d0e0f))
      | .fault _ => false
      | .refused _ => false) = true := by decide +kernel
/-- V-SRC-12. -/
theorem test_loadKey192_schedule : seq192.w[51] = hex 4 0xe3a41d5d ∧ seq192.ksz = .aes192 := by decide +kernel
/-- V-SRC-13, V-KE-27: the AES-256 branch. -/
theorem test_loadKey256_schedule : seq256.w[12] = hex 4 0x1651a8cd ∧ seq256.w[59] = hex 4 0x6d68de36 := by decide +kernel
/-- V-CB-13: `RKSZ` is the key-size code. -/
theorem test_readKey :
    respond1 seq192 0x0002 zero32
      = some { status := .ok, rksz := 0b01, rdata := pad32 (hex 24 0x000102030405060708090a0b0c0d0e0f1011121314151617) } := by
  decide +kernel
/-- V-CB-01. -/
theorem test_readKey_noKey : respond1 State.reset 0x0002 zero32 = errorOf .noKey := by decide +kernel
/-- V-SRC-01. -/
theorem test_encrypt_128 :
    respond1 fips128 0x0003 (pad32 (hex 16 0x3243f6a8885a308d313198a2e0370734))
      = okBytes 16 0x3925841d02dc09fbdc118597196a0b32 := by decide +kernel
/-- V-SRC-03. -/
theorem test_encrypt_192 : respond1 seq192 0x0003 seqBlock = okBytes 16 0xdda97ca4864cdfe06eaf70a0ec0d7191 := by
  decide +kernel
/-- V-SRC-08. -/
theorem test_decrypt_256 :
    respond1 seq256 0x0004 (pad32 (hex 16 0x8ea2b7ca516745bfeafc49904b496089))
      = okBytes 16 0x00112233445566778899aabbccddeeff := by decide +kernel
/-- V-CB-03. -/
theorem test_decrypt_noKey : respond1 State.reset 0x0004 seqBlock = errorOf .noKey := by decide +kernel
/-- V-CB-20: a refused LOAD_KEY. -/
theorem test_badKeySize : respond1 seq256 0x0061 (hex 32 (2 ^ 256 - 1)) = errorOf .keySize := by decide +kernel

/-! The unit commands. -/

/-- V-RS-05. -/
theorem test_readSchedWord : respond1 fips128 0x2B05 zero32 = okBytes 4 0xb6630ca6 := by decide +kernel
/-- V-RS-06. -/
theorem test_readSchedWord_range : respond1 fips128 0x2C05 zero32 = errorOf .range := by decide +kernel
/-- V-FC-01. -/
theorem test_sbox : respond1 State.reset 0x5308 zero32 = okBytes 1 0xed := by decide +kernel
/-- V-FC-03. -/
theorem test_sbox_last : respond1 State.reset 0xFF08 zero32 = okBytes 1 0x16 := by decide +kernel
/-- V-FC-04. -/
theorem test_invSbox : respond1 State.reset 0xED09 zero32 = okBytes 1 0x53 := by decide +kernel
/-- V-SB-12. -/
theorem test_invSbox_last : respond1 State.reset 0xFF09 zero32 = okBytes 1 0x7d := by decide +kernel
/-- V-FC-09. -/
theorem test_xtime : respond1 State.reset 0xFF0A zero32 = okBytes 1 0xe5 := by decide +kernel
/-- V-XT-07. -/
theorem test_xtime_no_reduction : respond1 State.reset 0x7F0A zero32 = okBytes 1 0xfe := by decide +kernel
/-- V-ST-02. -/
theorem test_subBytes : respond1 State.reset 0x0010 seqBlock = okBytes 16 0x638293c31bfc33f5c4eeacea4bc12816 := by
  decide +kernel
/-- V-ST-08. -/
theorem test_invSubBytes : respond1 State.reset 0x0011 seqBlock = okBytes 16 0x52e3946686edd30297f962fe27c9997d := by
  decide +kernel
/-- V-ST-14. -/
theorem test_shiftRows : respond1 State.reset 0x0012 seqBlock = okBytes 16 0x0055aaff4499ee3388dd2277cc1166bb := by
  decide +kernel
/-- V-ST-20. -/
theorem test_invShiftRows : respond1 State.reset 0x0013 seqBlock = okBytes 16 0x00ddaa774411eebb885522ffcc996633 := by
  decide +kernel
/-- V-ST-26. -/
theorem test_mixColumns : respond1 State.reset 0x0014 seqBlock = okBytes 16 0x2277005566334411aaff88ddeebbcc99 := by
  decide +kernel
/-- V-ST-35. -/
theorem test_invMixColumns :
    respond1 State.reset 0x0015 (pad32 (hex 16 0xdb135345f20a225c01010101c6c6c6c6))
      = okBytes 16 0x32a41d55aec3698201010101c6c6c6c6 := by decide +kernel
/-- V-RC-16: the last round key of AES-192. -/
theorem test_addRoundKey_last : respond1 seq192 0x0C16 seqBlock = okBytes 16 0xa48628005e2dba7e4c8168ca2f79f3a2 := by
  decide +kernel
/-- V-RC-04: E_NO_KEY before E_RANGE. -/
theorem test_addRoundKey_noKey_first : respond1 State.reset 0x0D16 seqBlock = errorOf .noKey := by decide +kernel
/-- V-RC-29. -/
theorem test_encRound : respond1 seq256 0x0118 seqBlock = okBytes 16 0x7368f4cae072ed61b51f26efcef694bc := by
  decide +kernel
/-- V-RC-10: the final round. -/
theorem test_encRound_final : respond1 seq128 0x0A18 seqBlock = okBytes 16 0x70edb169f87a62d437c6347e06a9032f := by
  decide +kernel
/-- V-RC-08: round 0 is no ENC_ROUND. -/
theorem test_encRound_zero : respond1 seq128 0x0018 seqBlock = errorOf .range := by decide +kernel
/-- V-RC-23. -/
theorem test_decRound : respond1 seq192 0x0B19 seqBlock = okBytes 16 0x0b59bdcce078d32145be45235dfb5a09 := by
  decide +kernel
/-- V-RC-12: the final round. -/
theorem test_decRound_final : respond1 seq128 0x0019 seqBlock = okBytes 16 0x52c8600182e69ff99fe49e762bf4dd69 := by
  decide +kernel
/-- V-RC-24: round key Nr is no DEC_ROUND. -/
theorem test_decRound_last : respond1 seq192 0x0C19 seqBlock = errorOf .range := by decide +kernel

/-! Words and field elements. -/

/-- V-GF-04. -/
theorem test_gfMulc : (gfMulc 0x80 .c9, gfMulc 0x80 .c11, gfMulc 0x80 .c13, gfMulc 0x80 .c14) = (0xec, 0xf7, 0xda, 0x41) := by
  decide +kernel
/-- R42: the first byte is the most significant. -/
theorem test_wordNumber : wordNumber #v[0xb6, 0x63, 0x0c, 0xa6] = 0xb6630ca6 := by decide +kernel
/-- R48: byte 0 is bits 255:248. -/
theorem test_packBus : packBus (hex 32 0x2b7e) = 0x2b7e ∧ (packBus (pad32 (hex 1 0x80))).getLsbD 255 = true := by
  decide +kernel

/-! The ports (R270, R278, R279). -/

/-- A cycle in which the host drives nothing. -/
def quiet : PortIn := { rst := false, cmdValid := false, cmdWord := 0, cmdData := 0, rspReady := false }

/-- The phase after a result. -/
def phaseAfter (o : Result) : Option Phase :=
  match o with
  | .next s => some s.phase
  | .fault _ => none
  | .refused _ => none

/-- BUSY ends with the response, after its last cycle. -/
theorem test_clock_busy_ends :
    phaseAfter (clock quiet { State.reset with phase := .busy { cw := 0x5308, cdata := zero32 } 1 })
      = some (.respond { status := .ok, rksz := 0, rdata := pad32 (hex 1 0xed) }) := by decide +kernel
/-- BUSY counts its cycles. -/
theorem test_clock_busy_counts :
    phaseAfter (clock quiet { State.reset with phase := .busy { cw := 0x5308, cdata := zero32 } 3 })
      = some (.busy { cw := 0x5308, cdata := zero32 } 2) := by decide +kernel
/-- A reset edge drops a response that waits, even as it is taken (R271). -/
theorem test_clock_reset_drops_response :
    phaseAfter (clock { quiet with rst := true, rspReady := true }
      { seq128 with phase := .respond { status := .ok, rksz := 0, rdata := zero32 } }) = some .idle := by decide +kernel

/-- R240: the five values. -/
theorem test_status_codes :
    (Status.code .ok, Status.code .illegal, Status.code .keySize, Status.code .noKey, Status.code .range)
      = (0x00, 0x01, 0x02, 0x03, 0x04) := by decide
/-- R278, R280: a busy core is not ready, even while `rst` is asserted. -/
theorem test_busy_not_ready_in_reset :
    (portOutputs true { cmdReady := true, rspStatus := 0, rspKsz := 0, rspData := 0 }
      { seq128 with phase := .busy (encode .readKey) 2 }).cmdReady = false := by decide +kernel
/-- The runs the host holds after a result. -/
def runsAfter (o : Result) : Option (List PastRun × List Response) :=
  match o with
  | .next s => some (s.pastRuns, s.responses)
  | .fault _ => none
  | .refused _ => none
/-- R287: a reset in BUSY makes two runs; the first has not ended. -/
theorem test_reset_splits_run :
    runsAfter (cycle true true { seq128 with phase := .busy (encode .readKey) 2, pending := [encode .readKey] })
      = some ([{ responses := [{ status := .ok, rksz := 0, rdata := zero32 }], inFlight := some (encode .readKey),
                 ended := false }], []) := by decide +kernel

/-! The assembler: R75's examples. -/

theorem test_asm_readSchedWord :
    assembleLine ['R','E','A','D','_','S','C','H','E','D','_','W','O','R','D',' ','4','3']
      = some { cw := 0x2B05, cdata := zero32 } := by decide +kernel
theorem test_asm_round :
    assembleLine (['A','D','D','_','R','O','U','N','D','_','K','E','Y',' ','1','0',',',' ']
        ++ ['0','0','1','1','2','2','3','3','4','4','5','5','6','6','7','7']
        ++ ['8','8','9','9','a','a','b','b','c','c','d','d','e','e','f','f'])
      = some { cw := 0x0A16, cdata := seqBlock } := by decide +kernel
theorem test_asm_raw :
    assembleLine ['.','C','M','D',' ','0','x','0','0','6','1',' ',';',' ','b','a','d']
      = some { cw := 0x0061, cdata := zero32 } := by decide +kernel
/-- R73: a block of the wrong length is rejected. -/
theorem test_asm_short_block : assembleLine ['E','N','C','R','Y','P','T',' ','0','0','1','1'] = none := by decide +kernel
/-- R74. -/
theorem test_asm_newKey :
    assembleLine (['N','E','W',' '] ++ List.replicate 48 '0') = some (encode (.loadKey192 (hex 24 0))) := by decide +kernel

/-! Witnesses: one theorem for each obligation that has hypotheses. -/

open Sys2Proof.Claims

/-- A state whose host issues one command word, with a block as data. -/
def issuing (s : State) (cw : BitVec 16) : State := { s with pending := [{ cw := cw, cdata := seqBlock }] }

/-- The command of `issuing`. -/
def cmdOf (cw : BitVec 16) : Command := { cw := cw, cdata := seqBlock }

theorem issuing_issues (s : State) (h : s.phase = .idle) (cw : BitVec 16) : Issues (issuing s cw) (cmdOf cw) [] := ⟨h, rfl⟩

/-- A state with a key meets the invariant. -/
theorem seq192_inv : seq192.Inv :=
  takeResponse_inv _ _
    (installKey_scheduleInv State.reset .aes192 _ fun k h hk => pad32_getElem_of_le _ k hk h)
    (fun h => absurd rfl h) (fun _ h => nomatch h) (fun _ h => nomatch h)

theorem issuing_seq192_inv (cw : BitVec 16) : (issuing seq192 cw).Inv := seq192_inv

theorem witness_CoreViewSummary :
    seq192.Inv ∧ seq192.coreView.keyValid = true ∧ (Instr.loadKey192 (hex 24 0)).opcode = .loadKey :=
  ⟨seq192_inv, rfl, rfl⟩

theorem witness_EveryStepKeepsTheInvariant :
    (issuing seq192 0x0001).Inv ∧ ∃ t, step (issuing seq192 0x0001) = .next t ∧ t.keyValid = true :=
  ⟨issuing_seq192_inv _, _, rfl, rfl⟩

theorem witness_EveryClockEdgeKeepsTheInvariant :
    ({ seq192 with phase := .busy (cmdOf 0x0001) 1 } : State).Inv
      ∧ (∃ t, clock quiet { seq192 with phase := .busy (cmdOf 0x0001) 1 } = .next t ∧ t.keyValid = true)
      ∧ (∃ t, cycle true true { seq192 with phase := .busy (cmdOf 0x0001) 1 } = .next t ∧ t.keyValid = false)
      ∧ ∃ t, cycle false true { seq192 with phase := .busy (cmdOf 0x0001) 1 } = .next t ∧ t.keyValid = true :=
  ⟨⟨seq192_inv.1, Nat.le_refl 1, seq192_inv.2.2⟩, ⟨_, rfl, rfl⟩, ⟨_, rfl, rfl⟩, _, rfl, rfl⟩

theorem witness_StepRunsTheDecodedInstruction :
    Issues (issuing seq192 0x5308) (cmdOf 0x5308) []
      ∧ decode (issuing seq192 0x5308).params (cmdOf 0x5308) = .cmd (.sbox 0x53)
      ∧ (seq192.offer (errorResponse .range)).phase = .respond (errorResponse .range)
      ∧ State.reset.phase = .idle ∧ State.reset.pending = [] :=
  ⟨issuing_issues _ rfl _, rfl, rfl, rfl, rfl⟩

/-- An idle core with a program, and its first and last command. -/
theorem witness_ProgramRunGivesOneResponsePerCommand :
    ({ State.reset with pending := [cmdOf 0x0001, cmdOf 0x0003, cmdOf 0xffff] } : State).phase = .idle
      ∧ 0 < [cmdOf 0x0001, cmdOf 0x0003, cmdOf 0xffff].length
      ∧ 2 < [cmdOf 0x0001, cmdOf 0x0003, cmdOf 0xffff].length := ⟨rfl, Nat.zero_lt_succ _, Nat.le_refl 3⟩

theorem witness_RunIsStepThenRun :
    Issues (issuing seq192 0x0061) (cmdOf 0x0061) [] ∧ ∃ t, step (issuing seq192 0x0061) = .next t :=
  ⟨issuing_issues _ rfl _, _, rfl⟩

theorem witness_DecodeOfEncodeIsTheInstruction :
    Instr.wellFormed { unitCmds := true } (.encRound 255 (hex 16 0)) = true
      ∧ Instr.wellFormed { unitCmds := false } (.loadKey256 (hex 32 0)) = true := ⟨rfl, rfl⟩

theorem witness_EncodeOfDecodeIsTheCommand :
    decode { unitCmds := true } { cw := 0xff08, cdata := hex 32 (2 ^ 256 - 1) } = .cmd (.sbox 0xff)
      ∧ decode { unitCmds := false } { cw := 0x0002, cdata := hex 32 (2 ^ 256 - 1) } = .cmd .readKey := ⟨rfl, rfl⟩

theorem witness_IllegalWordsAreExactlyThese :
    Issues (issuing seq192 0x0081) (cmdOf 0x0081) [] ∧ decodeWord (issuing seq192 0x0081).params 0x0081 = .illegal
      ∧ Issues (issuing seq192 0x0061) (cmdOf 0x0061) []
      ∧ decodeWord (issuing seq192 0x0061).params 0x0061 = .badKeySize :=
  ⟨issuing_issues _ rfl _, rfl, issuing_issues _ rfl _, rfl⟩

theorem witness_UnusedBytesAreIgnoredAndZero :
    Issues (issuing seq192 0x5308) (cmdOf 0x5308) []
      ∧ decode (issuing seq192 0x5308).params (cmdOf 0x5308) = .cmd (.sbox 0x53)
      ∧ ({ cw := 0x5308, cdata := zero32 } : Command).cw = (cmdOf 0x5308).cw
      ∧ (∀ (k : Nat) (h : k < 32), k < (Instr.sbox 0x53).operandBytes → zero32[k] = (cmdOf 0x5308).cdata[k])
      ∧ ∃ t r, exec (.sbox 0x53) seq192 = .next t ∧ t.phase = .respond r :=
  ⟨issuing_issues _ rfl _, rfl, rfl, fun _ _ h => absurd h (Nat.not_lt_zero _), _, _, rfl, rfl⟩

theorem witness_StatusIsTheFirstFailingCheck :
    Issues (issuing State.reset 0x0D16) (cmdOf 0x0D16) []
      ∧ firstFailing (decodeWord Config.defaultParams 0x0D16) State.reset = .noKey
      ∧ firstFailing (decodeWord Config.defaultParams 0x0D16) seq192 = .range
      ∧ firstFailing (decodeWord Config.defaultParams 0x0C16) seq192 = .ok
      ∧ firstFailing (decodeWord Config.defaultParams 0x0061) seq192 = .keySize
      ∧ firstFailing (decodeWord Config.defaultParams 0x0D36) seq192 = .illegal := by
  refine ⟨issuing_issues _ rfl _, ?_⟩
  decide +kernel

theorem witness_ErrorWritesNoState :
    Issues (issuing seq192 0x0D16) (cmdOf 0x0D16) []
      ∧ ∃ t r, step (issuing seq192 0x0D16) = .next t ∧ t.responses = (issuing seq192 0x0D16).responses ++ [r]
        ∧ r.status ≠ .ok :=
  ⟨issuing_issues _ rfl _, _, errorResponse .range, rfl, rfl, fun h => nomatch h⟩

theorem witness_KeyedCommandsNeedAKey :
    keyedOp (Instr.encrypt (hex 16 0)).opcode = true ∧ State.reset.keyValid = false
      ∧ keyedOp (Instr.loadKey128 (hex 16 0)).opcode = false ∧ keyedOp (Instr.mixColumns (hex 16 0)).opcode = false
      ∧ ∃ t, exec (.loadKey128 (hex 16 0)) State.reset = .next t := ⟨rfl, rfl, rfl, rfl, _, rfl⟩

/-- Both sides of every bound, for each key size. -/
theorem witness_IndexRangesOfTheActiveKey :
    (fips128.keyValid && seq192.keyValid && seq256.keyValid) = true
      ∧ tableLimits fips128.ksz = ((43 : Byte).toNat, (10 : Byte).toNat)
      ∧ tableLimits seq192.ksz = ((51 : Byte).toNat, (12 : Byte).toNat)
      ∧ tableLimits seq256.ksz = ((59 : Byte).toNat, (14 : Byte).toNat)
      ∧ (tableLimits fips128.ksz).1 < (44 : Byte).toNat ∧ (tableLimits fips128.ksz).2 < (11 : Byte).toNat
      ∧ 1 ≤ (1 : Byte).toNat ∧ (1 : Byte).toNat ≤ (tableLimits fips128.ksz).2
      ∧ (9 : Byte).toNat < (tableLimits fips128.ksz).2 ∧ (tableLimits fips128.ksz).2 ≤ (10 : Byte).toNat := by
  refine ⟨rfl, rfl, rfl, rfl, ?_⟩
  decide

theorem witness_FrameOfEveryInstruction :
    (∃ t, exec (.decrypt (hex 16 0)) seq192 = .next t) ∧ (Instr.decrypt (hex 16 0)).opcode ≠ .loadKey :=
  ⟨⟨_, rfl⟩, fun h => nomatch h⟩

theorem witness_CommandsAreIdempotent :
    (Issues (issuing seq192 0x0D16) (cmdOf 0x0D16) [] ∧ (∃ t, step (issuing seq192 0x0D16) = .next t)
        ∧ ∀ z a, decodeWord (issuing seq192 0x0D16).params 0x0D16 ≠ .cmd .loadKey z a)
      ∧ (∃ t u, exec (.sbox 0) seq192 = .next t ∧ exec (.sbox 0) { t with phase := seq192.phase } = .next u)
      ∧ ∃ t u, exec (.loadKey128 (hex 16 0)) seq192 = .next t
        ∧ exec (.loadKey128 (hex 16 0)) { t with phase := seq192.phase } = .next u :=
  ⟨⟨issuing_issues _ rfl _, ⟨_, rfl⟩, fun _ _ h => nomatch h⟩, ⟨_, _, rfl, rfl⟩, _, _, rfl, rfl⟩

theorem witness_LoadKeyWritesTheKeyRegisters :
    (∃ t, exec .readKey seq192 = .next t) ∧ Instr.readKey.opcode ≠ .loadKey := ⟨⟨_, rfl⟩, fun h => nomatch h⟩

theorem witness_ReadKeyReturnsTheActiveKey :
    seq192.keyValid = true ∧ (∃ t, exec (.loadKey128 (hex 16 1)) State.reset = .next t)
      ∧ (∃ t, exec (.loadKey192 (hex 24 1)) State.reset = .next t)
      ∧ ∃ t, exec (.loadKey256 (hex 32 1)) seq192 = .next t := ⟨rfl, ⟨_, rfl⟩, ⟨_, rfl⟩, _, rfl⟩

theorem witness_DecryptUndoesEncrypt : seq192.keyValid = true := rfl

/-- Rounds 1 and Nr, and 0 and Nr-1. -/
theorem witness_CipherIsItsUnitCommands :
    seq192.keyValid = true ∧ 1 ≤ 1 ∧ 12 ≤ seq192.ksz.nr ∧ 0 < seq192.ksz.nr ∧ 11 < seq192.ksz.nr := by
  refine ⟨rfl, ?_⟩
  decide

theorem witness_SboxIsTheAffineImageOfTheInverse : (0x53 : Byte) ≠ 0 ∧ 0 < 8 ∧ 7 < 8 := by decide

/-- The first and the last word, and each of the three branches. -/
theorem witness_KeyExpansionMeetsItsRecurrence :
    (3 < KeySize.aes128.nk ∧ KeySize.aes128.nk ≤ 4 ∧ KeySize.aes128.nk ≤ 43 ∧ 43 < 4 * (KeySize.aes128.nr + 1))
      ∧ 8 % KeySize.aes256.nk = 0 ∧ (12 % KeySize.aes256.nk = 4 ∧ KeySize.aes256.nk = 8)
      ∧ (59 < 4 * (KeySize.aes256.nr + 1) ∧ 59 % KeySize.aes256.nk ≠ 0 ∧ 59 % KeySize.aes256.nk ≠ 4)
      ∧ (51 < 4 * (KeySize.aes192.nr + 1) ∧ 51 % KeySize.aes192.nk ≠ 0 ∧ KeySize.aes192.nk ≠ 8) := by decide

theorem witness_ReadSchedWordReturnsTheWord :
    seq192.keyValid = true ∧ seq192.Inv ∧ (51 : Byte).toNat < 60 ∧ (51 : Byte).toNat ≤ 4 * seq192.ksz.nr + 3 := by
  refine ⟨rfl, seq192_inv, ?_⟩
  decide

theorem witness_AddRoundKeyCommandXorsTheRoundKey :
    seq192.keyValid = true ∧ (12 : Byte).toNat ≤ seq192.ksz.nr := by
  refine ⟨rfl, ?_⟩
  decide

theorem witness_AddRoundKeyZeroXorsTheKey : seq192.Inv ∧ seq192.keyValid = true := ⟨seq192_inv, rfl⟩

/-- A middle round and the last one. -/
theorem witness_EncRoundIsItsUnitCommands :
    seq192.keyValid = true ∧ 1 ≤ (1 : Byte).toNat ∧ (1 : Byte).toNat ≤ seq192.ksz.nr ∧ (1 : Byte).toNat ≠ seq192.ksz.nr
      ∧ 1 ≤ (12 : Byte).toNat ∧ (12 : Byte).toNat = seq192.ksz.nr := by
  refine ⟨rfl, ?_⟩
  decide

/-- A middle round and the last one. -/
theorem witness_DecRoundIsItsUnitCommands :
    seq192.keyValid = true ∧ (11 : Byte).toNat < seq192.ksz.nr ∧ (11 : Byte).toNat ≠ 0
      ∧ (0 : Byte).toNat < seq192.ksz.nr ∧ (0 : Byte).toNat = 0 := by
  refine ⟨rfl, ?_⟩
  decide

/-- Without a key, three registers may differ; with one, `W` beyond the schedule may. -/
theorem witness_UnspecifiedContentsAreNeverObserved :
    Indistinguishable State.reset { State.reset with key := hex 32 1, ksz := .aes256, draws := 7 }
      ∧ Indistinguishable seq192 { seq192 with w := seq192.w.set 59 (hex 4 1) } := by
  refine ⟨⟨rfl, rfl, rfl, rfl, rfl, rfl, (fun h => nomatch h)⟩, rfl, rfl, rfl, rfl, rfl, rfl, fun _ => ⟨rfl, rfl, fun i h hl => ?_⟩⟩
  have h52 : i < 52 := hl
  exact (Vector.getElem_set_ne (by omega) h (by omega)).symm

theorem witness_ResetEdgeGivesTheResetState : ({ quiet with rst := true } : PortIn).rst = true := rfl

/-- Nothing begun; a command in BUSY; a response that waits; a run between two commands; a run that has ended. -/
theorem witness_ResetSplitsTheRun :
    (State.reset.phase = .idle ∧ State.reset.responses = [])
      ∧ ({ seq192 with phase := .busy (cmdOf 0x0003) 3 } : State).phase = .busy (cmdOf 0x0003) 3
      ∧ (((issuing seq192 0x0003).offer (errorResponse .range)).phase = .respond (errorResponse .range)
          ∧ ((issuing seq192 0x0003).offer (errorResponse .range)).pending = [cmdOf 0x0003])
      ∧ ((issuing seq192 0x0003).phase = .idle ∧ (issuing seq192 0x0003).responses ≠ [])
      ∧ (seq192.RunEnded ∧ seq192.responses ≠ []) :=
  ⟨⟨rfl, rfl⟩, rfl, ⟨rfl, rfl⟩, ⟨rfl, fun h => nomatch h⟩, ⟨rfl, rfl⟩, fun h => nomatch h⟩

theorem witness_HandshakeOfBothPorts :
    quiet.rst = false ∧ State.reset.phase = .idle ∧ quiet.cmdValid = false
      ∧ ({ quiet with cmdValid := true } : PortIn).cmdValid = true
      ∧ (seq192.offer (errorResponse .range)).phase = .respond (errorResponse .range)
      ∧ quiet.rspReady = false ∧ ({ quiet with rspReady := true } : PortIn).rspReady = true
      ∧ ({ seq192 with phase := .busy (cmdOf 0x0003) 3 } : State).phase = .busy (cmdOf 0x0003) 3 :=
  ⟨rfl, rfl, rfl, rfl, rfl, rfl, rfl, rfl⟩

theorem witness_OneOutstandingCommand :
    ({ seq192 with phase := .busy (cmdOf 0x0003) 3 } : State).phase ≠ .idle
      ∧ (∃ t, clock quiet { seq192 with phase := .busy (cmdOf 0x0003) 3 } = .next t ∧ t.phase = .busy (cmdOf 0x0003) 2)
      ∧ ∃ t, clock { quiet with rst := true } { seq192 with phase := .busy (cmdOf 0x0003) 3 } = .next t :=
  ⟨(fun h => nomatch h), ⟨_, rfl, rfl⟩, _, rfl⟩

/-- The first edge, the last BUSY cycle and the first cycle of the response, whatever the latency is. -/
theorem witness_ResponseIsOfferedAfterItsLatency (n : Nat)
    (h : latencyOf (issuing seq192 0x0003).params (issuing seq192 0x0003).activeSize 0x0003 = n) :
    Issues (issuing seq192 0x0003) (cmdOf 0x0003) [] ∧ 1 ≤ [true].length ∧ [true].length ≤ n
      ∧ (List.replicate n false).length = n ∧ (List.replicate (n + 1) false).length = n + 1 :=
  ⟨issuing_issues _ rfl _, Nat.le_refl 1, h ▸ Nat.le_add_left 1 _, List.length_replicate, List.length_replicate⟩

theorem witness_CyclesRefineTheStep (n : Nat) :
    Issues (issuing seq192 0x0003) (cmdOf 0x0003) [] ∧ (List.replicate (n + 1) true).length = n + 1 :=
  ⟨issuing_issues _ rfl _, List.length_replicate⟩

/-- Without a key `KSZ` may differ; with one the key may. -/
theorem witness_LatencyIsDataIndependent :
    (cmdOf 0x0003).cw = ({ cw := 0x0003, cdata := zero32 } : Command).cw
      ∧ (State.reset.params = { State.reset with ksz := .aes256 }.params
          ∧ State.reset.keyValid = { State.reset with ksz := .aes256 }.keyValid ∧ State.reset.keyValid ≠ true)
      ∧ (seq192.params = { seq192 with key := zero32 }.params ∧ seq192.keyValid = { seq192 with key := zero32 }.keyValid
          ∧ seq192.ksz = { seq192 with key := zero32 }.ksz) :=
  ⟨rfl, ⟨rfl, rfl, fun h => nomatch h⟩, rfl, rfl, rfl⟩

theorem witness_InstancesAreIndependent :
    ∃ cores', stepInstance 0 [issuing seq192 0x0001, fips128] = .next cores'
      ∧ 1 ≠ 0 ∧ [issuing seq192 0x0001, fips128][0]? = some (issuing seq192 0x0001) :=
  ⟨_, rfl, Nat.one_ne_zero, rfl⟩

theorem witness_OnlyRawLinesCanBeIllegal :
    parseLine ['S','B','O','X',' ','8','3'] = some (.sbox, [['8','3']])
      ∧ assembleLine ['S','B','O','X',' ','8','3'] = some { cw := 0x5308, cdata := zero32 }
      ∧ AsmOp.sbox ≠ .rawCommand := by decide +kernel

/-- Keys of 16, 24, 32 and 17 bytes. -/
theorem witness_PseudoInstructionsExpand :
    ((parseHexBytes (List.replicate 32 'a')).map List.length, (parseHexBytes (List.replicate 48 'a')).map List.length,
      (parseHexBytes (List.replicate 64 'a')).map List.length, (parseHexBytes (List.replicate 34 'a')).map List.length)
      = (some 16, some 24, some 32, some 17) := by decide +kernel

end Sys2Proof.Tests
end

section

namespace Sys2Proof

/-! The words that are not illegal (R66): what the decoder asks of the fields of a packed word, once for all opcodes. -/

/-- A word with the reserved bit 0 is packed from its three other fields (R61). -/
theorem packWord_fields (cw : BitVec 16) (hrsv : rsvField cw = 0) :
    packWord (opField cw) (kszField cw) (argField cw) = cw := by
  have hbit : cw.getLsbD 7 = false := by
    simpa [rsvField] using congrArg (BitVec.getLsbD · 0) hrsv
  apply BitVec.eq_of_getLsbD_eq
  intro i hi
  rw [packWord_getLsbD]
  split_ifs with hop hksz h7
  · simp [opField, hop]
  · simp [kszField, hksz, show 5 + (i - 5) = i by omega]
  · obtain rfl : i = 7 := by omega
    exact hbit.symm
  · simp [argField, show i - 5 - 2 - 1 < 8 by omega, show 8 + (i - 5 - 2 - 1) = i by omega]

/-- R66 on a packed LOAD_KEY word: `ARG` alone can make it illegal, since the reserved key size has its own status. -/
theorem decodeWord_packWord_loadKey_ne_illegal_iff (p : Config.Params) (ksz : BitVec 2) (arg : Byte) :
    decodeWord p (packWord Opcode.loadKey.code ksz arg) ≠ .illegal ↔ arg = 0 := by
  simp only [decodeWord, rsvField_packWord, opField_packWord, kszField_packWord, argField_packWord, Opcode.ofCode_code]
  cases KeySize.ofCode? ksz <;> simp

/-- R66 on a packed word of any other opcode. -/
theorem decodeWord_packWord_of_ne_loadKey (p : Config.Params) {op : Opcode} (hop : op ≠ .loadKey) (ksz : BitVec 2)
    (arg : Byte) :
    decodeWord p (packWord op.code ksz arg)
      = if op.isUnit && !p.unitCmds then .illegal
        else if ksz ≠ 0 then .illegal
        else if op.takesArg then .cmd op .aes128 arg
        else if arg ≠ 0 then .illegal
        else .cmd op .aes128 0 := by
  unfold decodeWord
  rw [rsvField_packWord, opField_packWord, kszField_packWord, argField_packWord, Opcode.ofCode_code]
  cases op with
  | loadKey => exact absurd rfl hop
  | _ => rfl

/-- What R66 asks of the fields of a packed word: a unit command is implemented, only LOAD_KEY has a key size, and an
opcode that takes no argument has none. -/
theorem decodeWord_packWord_ne_illegal_iff (p : Config.Params) (op : Opcode) (ksz : BitVec 2) (arg : Byte) :
    decodeWord p (packWord op.code ksz arg) ≠ .illegal
      ↔ (op.isUnit = true → p.unitCmds = true) ∧ (op ≠ .loadKey → ksz = 0) ∧ (op.takesArg = false → arg = 0) := by
  by_cases hop : op = .loadKey
  · subst hop
    simp [decodeWord_packWord_loadKey_ne_illegal_iff, Opcode.isUnit, Opcode.takesArg]
  · rw [decodeWord_packWord_of_ne_loadKey p hop]
    split_ifs <;> simp_all

/-- The words that are not illegal are those packed from an opcode and fields that R66 allows it. -/
theorem decodeWord_ne_illegal_iff (p : Config.Params) (cw : BitVec 16) :
    decodeWord p cw ≠ .illegal
      ↔ ∃ (op : Opcode) (ksz : BitVec 2) (arg : Byte), cw = packWord op.code ksz arg
          ∧ (op.isUnit = true → p.unitCmds = true) ∧ (op ≠ .loadKey → ksz = 0) ∧ (op.takesArg = false → arg = 0) := by
  constructor
  · intro h
    have hrsv : rsvField cw = 0 := by
      by_contra hr
      exact h (if_pos hr)
    obtain ⟨op, hop⟩ : ∃ op, Opcode.ofCode? (opField cw) = some op := by
      cases hc : Opcode.ofCode? (opField cw) with
      | none => exact absurd (by simp [decodeWord, hc]) h
      | some op => exact ⟨op, rfl⟩
    have hcw : cw = packWord op.code (kszField cw) (argField cw) := by
      rw [Opcode.code_of_ofCode _ _ hop, packWord_fields cw hrsv]
    refine ⟨op, kszField cw, argField cw, hcw, (decodeWord_packWord_ne_illegal_iff p op _ _).mp ?_⟩
    rwa [← hcw]
  · rintro ⟨op, ksz, arg, rfl, hfields⟩
    exact (decodeWord_packWord_ne_illegal_iff p op ksz arg).mpr hfields

/-- R65: the opcodes outside the unit group are the four of the facade. -/
theorem Opcode.isUnit_eq_false_iff (op : Opcode) :
    op.isUnit = false ↔ op = .loadKey ∨ op = .readKey ∨ op = .encrypt ∨ op = .decrypt := by
  cases op <;> decide

/-- Settles O13: without the unit commands four opcodes are left, none of which takes an argument; LOAD_KEY has its four
key-size codes, the reserved one among them, and the others have `KSZ` zero. -/
theorem facadeOnlyCoreHasSevenWords : Obligations.FacadeOnlyCoreHasSevenWords := by
  intro cw
  constructor
  · intro h
    obtain ⟨op, ksz, arg, rfl, hunit, hksz, harg⟩ := (decodeWord_ne_illegal_iff _ cw).mp h
    have hfacade : op.isUnit = false := by simpa using hunit
    obtain rfl | hop := op.isUnit_eq_false_iff.mp hfacade
    · obtain rfl := harg rfl
      revert ksz
      decide
    · obtain rfl | rfl | rfl := hop <;> rw [hksz (by decide), harg rfl] <;> decide
  · intro hmem
    simp only [List.mem_cons, List.not_mem_nil, or_false] at hmem
    rcases hmem with rfl | rfl | rfl | rfl | rfl | rfl | rfl <;> decide

end Sys2Proof

end

section

/-! The state family (10_state.md): what a command can do to a state, said once for two states that hold the same
specified contents; the invariant of steps, edges and cycles, and the independence of the unspecified contents (R33),
are read off it. -/

set_option autoImplicit false

namespace Sys2Proof.Machine

open Sys2Proof.Claims

/-! LOAD_KEY (R205). -/

/-- R23: key bytes with zeros above a key of the given size. -/
def PaddedKey (z : KeySize) (kb : Bytes32) : Prop := ∀ (k : Nat) (h : k < 32), 4 * z.nk ≤ k → kb[k] = 0

/-- Every LOAD_KEY is a key load with padded key bytes, whatever the state. -/
theorem exec_eq_loadKey {i : Instr} (hi : i.opcode = .loadKey) :
    ∃ z kb, PaddedKey z kb ∧ ∀ s, exec i s = loadKey z kb s := by
  cases i with
  | loadKey128 key => exact ⟨.aes128, pad32 key, fun k h hk => pad32_getElem_of_le key k hk h, fun _ => rfl⟩
  | loadKey192 key => exact ⟨.aes192, pad32 key, fun k h hk => pad32_getElem_of_le key k hk h, fun _ => rfl⟩
  | loadKey256 key => exact ⟨.aes256, key, fun k h hk => absurd h (Nat.not_lt.mpr hk), fun _ => rfl⟩
  | _ => cases hi

/-- R26: a key load writes the schedule of its key, padded or not. -/
theorem installKey_scheduleMatches (s : State) (z : KeySize) (kb : Bytes32) :
    (s.installKey z kb).ScheduleMatches := by
  intro i hi hl
  rw [installKey_scheduleWord s z kb i hl]
  exact List.getElem?_eq_getElem _

theorem pad32_getElem_eq_getD {n : Nat} (v : Vector Byte n) (k : Nat) (h : k < 32) :
    (pad32 v)[k] = v.toList.getD k 0 := by
  rw [pad32_getElem]
  split_ifs with hk <;> simp [hk]

/-- R205: what a key load leaves, for key bytes that are a list followed by zeros. -/
theorem loadKey_keyLoaded (s : State) (z : KeySize) {kb : Bytes32} {bytes : List Byte}
    (hkb : ∀ (k : Nat) (h : k < 32), kb[k] = bytes.getD k 0) :
    ∃ t, loadKey z kb s = .next t ∧ KeyLoaded s t z bytes :=
  ⟨_, loadKey_eq s z kb, rfl, rfl, hkb, installKey_scheduleMatches s z kb, rfl, rfl, rfl, rfl, rfl⟩

/-- R34: a valid key makes all four registers show. -/
theorem coreView_valid {s : State} (hv : s.keyValid = true) :
    s.coreView = { key := some s.key, ksz := some s.ksz, keyValid := true, w := some s.w } := if_pos hv

theorem coreView_keyValid (s : State) : s.coreView.keyValid = s.keyValid := by
  unfold State.coreView
  cases s.keyValid <;> rfl

/-! The schedule as the readers see it: the words below `L` alone (R26). -/

/-- Two stores hold the same schedule of a key size. -/
def SameSchedule (z : KeySize) (w w' : ScheduleStore) : Prop :=
  ∀ (i : Nat) (h : i < 60), i < 4 * (z.nr + 1) → w[i] = w'[i]

section
variable {z : KeySize} {w w' : ScheduleStore} (h : SameSchedule z w w')
include h

theorem SameSchedule.roundKey_eq {r : Fin 15} (hr : r.val ≤ z.nr) : roundKey w r = roundKey w' r := by
  apply Vector.ext
  intro c hc
  simpa [roundKey] using h (4 * r.val + c) (by omega) (by omega)

/-- The fold of a round over the middle rounds, in either order, reads round keys below `Nr` alone. -/
theorem SameSchedule.foldl_rounds_eq (round : StateMatrix → RoundKey → StateMatrix) (m : StateMatrix)
    {rs : List (Fin 15)} (hrs : ∀ r ∈ rs, r ∈ middleRounds z) :
    rs.foldl (fun m r => round m (roundKey w r)) m = rs.foldl (fun m r => round m (roundKey w' r)) m := by
  apply List.foldl_ext
  intro m r hr
  have hlt : r.val < z.nr := by
    have := hrs r hr
    simp only [middleRounds, List.mem_filter, decide_eq_true_eq] at this
    exact this.2.2
  rw [h.roundKey_eq hlt.le]

theorem SameSchedule.encryptBlock_eq (blk : Block) : encryptBlock w z blk = encryptBlock w' z blk := by
  simp only [encryptBlock, cipher]
  rw [h.roundKey_eq (r := 0) (Nat.zero_le _), h.roundKey_eq (r := lastRound z) le_rfl,
    h.foldl_rounds_eq (fun m k => aesEncryptRound m k false) _ fun _ hr => hr]

theorem SameSchedule.decryptBlock_eq (blk : Block) : decryptBlock w z blk = decryptBlock w' z blk := by
  simp only [decryptBlock, invCipher]
  rw [h.roundKey_eq (r := 0) (Nat.zero_le _), h.roundKey_eq (r := lastRound z) le_rfl,
    h.foldl_rounds_eq (fun m k => aesDecryptRound m k false) _ fun _ hr => List.mem_reverse.mp hr]

end

end Sys2Proof.Machine

/-! Indistinguishable states, and what each update makes of them. -/

namespace Sys2Proof.Claims

open Sys2Proof.Machine

theorem Indistinguishable.refl (s : State) : Indistinguishable s s :=
  ⟨rfl, rfl, rfl, rfl, rfl, rfl, fun _ => ⟨rfl, rfl, fun _ _ _ => rfl⟩⟩

section
variable {s s' : State} (h : Indistinguishable s s')
include h

theorem Indistinguishable.params_eq : s.params = s'.params := by
  obtain ⟨hparams, -⟩ := h
  exact hparams

theorem Indistinguishable.keyValid_eq : s.keyValid = s'.keyValid := by
  obtain ⟨-, hvalid, -⟩ := h
  exact hvalid

theorem Indistinguishable.phase_eq : s.phase = s'.phase := by
  obtain ⟨-, -, hphase, -⟩ := h
  exact hphase

theorem Indistinguishable.pending_eq : s.pending = s'.pending := by
  obtain ⟨-, -, -, hpend, -⟩ := h
  exact hpend

/-- With a key, both states hold the same one and its schedule. -/
theorem Indistinguishable.registers_eq (hv : s.keyValid = true) :
    s.key = s'.key ∧ s.ksz = s'.ksz ∧ SameSchedule s.ksz s.w s'.w := by
  obtain ⟨-, -, -, -, -, -, hregs⟩ := h
  exact hregs hv

theorem Indistinguishable.offer (r : Response) : Indistinguishable (s.offer r) (s'.offer r) := by
  obtain ⟨hparams, hvalid, -, hpend, hresp, hpast, hregs⟩ := h
  exact ⟨hparams, hvalid, rfl, hpend, hresp, hpast, hregs⟩

/-- A key load makes the registers agree: it overwrites them all but `W` beyond the schedule. -/
theorem Indistinguishable.installKey (z : KeySize) (kb : Bytes32) :
    Indistinguishable (s.installKey z kb) (s'.installKey z kb) := by
  obtain ⟨hparams, -, hphase, hpend, hresp, hpast, -⟩ := h
  refine ⟨hparams, rfl, hphase, hpend, hresp, hpast, fun _ => ⟨rfl, rfl, fun i hi hl => ?_⟩⟩
  apply Option.some_injective
  rw [← installKey_scheduleMatches s z kb i hi hl]
  exact installKey_scheduleMatches s' z kb i hi hl

theorem Indistinguishable.takeResponse (r : Response) :
    Indistinguishable (s.takeResponse r) (s'.takeResponse r) := by
  obtain ⟨hparams, hvalid, -, hpend, hresp, hpast, hregs⟩ := h
  exact ⟨hparams, hvalid, rfl, congrArg List.tail hpend, congrArg (· ++ [r]) hresp, hpast, hregs⟩

end

theorem Indistinguishable.deliver {s s' : State} (h : Indistinguishable s s') :
    Indistinguishable (deliver s) (deliver s') := by
  unfold Machine.deliver
  rw [← h.phase_eq]
  cases s.phase with
  | respond r => exact h.takeResponse r
  | _ => exact h

end Sys2Proof.Claims

namespace Sys2Proof.Machine

open Sys2Proof.Claims

/-! What a command answers. -/

/-- Two results offer the same well-formed response, each in its own state, and change nothing else. -/
def AnswersAlike (s s' : State) (o o' : Result) : Prop :=
  ∃ r : Response, r.WellFormed ∧ o = .next (s.offer r) ∧ o' = .next (s'.offer r)

theorem respondOk_alike (s s' : State) (rksz : BitVec 2) (d : Bytes32) :
    AnswersAlike s s' (respond .ok rksz d s) (respond .ok rksz d s') :=
  ⟨_, fun h => absurd rfl h, rfl, rfl⟩

theorem raise_alike (s s' : State) (e : Status) : AnswersAlike s s' (raise e s) (raise e s') :=
  ⟨_, fun _ => ⟨rfl, rfl⟩, rfl, rfl⟩

/-- R242: the index of a round-key command in its range is a round of the key size. -/
theorem le_nr_of_inRange {op : Opcode} {r : Byte} {z : KeySize}
    (hop : op = .addRoundKey ∨ op = .encRound ∨ op = .decRound) (hr : inRange op r z = true) : r.toNat ≤ z.nr := by
  rcases hop with rfl | rfl | rfl <;> simp only [inRange, decide_eq_true_eq] at hr <;> omega

section
variable {s s' : State} (h : Indistinguishable s s')
include h

/-- R242: a keyed command answers alike if it does with a key. -/
theorem keyed_alike {k k' : KeySize → Result}
    (hk : s.keyValid = true → s'.keyValid = true → AnswersAlike s s' (k s.ksz) (k' s.ksz)) :
    AnswersAlike s s' (keyed s k) (keyed s' k') := by
  rcases keyed_cases s k with ⟨hv, e⟩ | ⟨hv, e⟩
  · rw [e, keyed_noKey (h.keyValid_eq ▸ hv)]
    exact raise_alike s s' .noKey
  · have hv' : s'.keyValid = true := h.keyValid_eq ▸ hv
    obtain ⟨-, hksz, -⟩ := h.registers_eq hv
    rw [e, keyed_valid hv', ← hksz]
    exact hk hv hv'

/-- R242, R245: an indexed command answers alike if it does with a key and its index in range. -/
theorem indexed_alike {op : Opcode} {a : Byte} {k k' : KeySize → Result}
    (hk : s.keyValid = true → s'.keyValid = true → inRange op a s.ksz = true →
      AnswersAlike s s' (k s.ksz) (k' s.ksz)) :
    AnswersAlike s s' (indexed op a s k) (indexed op a s' k') := by
  refine keyed_alike h fun hv hv' => ?_
  cases hr : inRange op a s.ksz with
  | false => exact raise_alike s s' .range
  | true => exact hk hv hv' hr

theorem readKey_alike : AnswersAlike s s' (execReadKey s) (execReadKey s') := by
  refine keyed_alike h fun hv hv' => ?_
  obtain ⟨hkey, -, -⟩ := h.registers_eq hv
  rw [readKeyReg_valid hv, readKeyReg_valid hv', ← hkey]
  exact respondOk_alike s s' _ _

theorem encrypt_alike (blk : Block) : AnswersAlike s s' (execEncrypt blk s) (execEncrypt blk s') := by
  refine keyed_alike h fun hv hv' => ?_
  obtain ⟨-, -, hw⟩ := h.registers_eq hv
  rw [readSchedule_valid hv, readSchedule_valid hv', hw.encryptBlock_eq]
  exact respondOk_alike s s' _ _

theorem decrypt_alike (blk : Block) : AnswersAlike s s' (execDecrypt blk s) (execDecrypt blk s') := by
  refine keyed_alike h fun hv hv' => ?_
  obtain ⟨-, -, hw⟩ := h.registers_eq hv
  rw [readSchedule_valid hv, readSchedule_valid hv', hw.decryptBlock_eq]
  exact respondOk_alike s s' _ _

theorem readSchedWord_alike (i : Byte) :
    AnswersAlike s s' (execReadSchedWord i s) (execReadSchedWord i s') := by
  refine indexed_alike h fun hv hv' hr => ?_
  obtain ⟨-, -, hw⟩ := h.registers_eq hv
  have hi : i.toNat < s.ksz.schedLen := by
    simp only [inRange, decide_eq_true_eq] at hr
    unfold KeySize.schedLen
    omega
  rw [readScheduleWord_valid hv hi, readScheduleWord_valid hv' hi, hw _ _ hi]
  exact respondOk_alike s s' _ _

/-- The round-key commands read the round key of their index alone. -/
theorem roundCommand_alike {op : Opcode} (hop : op = .addRoundKey ∨ op = .encRound ∨ op = .decRound) (r : Byte)
    (f : KeySize → RoundKey → StateMatrix → StateMatrix) (blk : Block) :
    AnswersAlike s s'
      (indexed op r s fun z => readRoundKey z r.toNat s fun k => respondTransform (f z k) blk s)
      (indexed op r s' fun z => readRoundKey z r.toNat s' fun k => respondTransform (f z k) blk s') := by
  refine indexed_alike h fun hv hv' hr => ?_
  obtain ⟨-, -, hw⟩ := h.registers_eq hv
  have hle := le_nr_of_inRange hop hr
  rw [readRoundKey_valid hv hle, readRoundKey_valid hv' hle, hw.roundKey_eq hle]
  exact respondOk_alike s s' _ _

/-- R71, R243: every instruction but LOAD_KEY answers indistinguishable states alike and only offers its response. -/
theorem exec_alike {i : Instr} (hi : i.opcode ≠ .loadKey) : AnswersAlike s s' (exec i s) (exec i s') := by
  cases i with
  | loadKey128 | loadKey192 | loadKey256 => exact absurd rfl hi
  | readKey => exact readKey_alike h
  | encrypt blk => exact encrypt_alike h blk
  | decrypt blk => exact decrypt_alike h blk
  | readSchedWord i => exact readSchedWord_alike h i
  | sbox | invSbox | xtime => exact respondOk_alike s s' _ _
  | subBytes | invSubBytes | shiftRows | invShiftRows | mixColumns | invMixColumns =>
    exact respondOk_alike s s' _ _
  | addRoundKey r blk =>
    exact roundCommand_alike h (.inl rfl) r (fun _ k m => addRoundKey m k) blk
  | encRound r blk =>
    exact roundCommand_alike h (.inr (.inl rfl)) r (fun z k m => aesEncryptRound m k (r.toNat == z.nr)) blk
  | decRound r blk =>
    exact roundCommand_alike h (.inr (.inr rfl)) r (fun _ k m => aesDecryptRound m k (r.toNat == 0)) blk

/-- R70: everything a command can do, in two indistinguishable states at once. -/
theorem execCommand_alike_cases (c : Command) :
    AnswersAlike s s' (execCommand c s) (execCommand c s')
      ∨ ∃ z kb, PaddedKey z kb ∧ execCommand c s = loadKey z kb s ∧ execCommand c s' = loadKey z kb s' := by
  unfold execCommand
  rw [← h.params_eq]
  cases decode s.params c with
  | illegal => exact .inl (raise_alike s s' .illegal)
  | badKeySize => exact .inl (raise_alike s s' .keySize)
  | cmd i =>
    by_cases hi : i.opcode = .loadKey
    · obtain ⟨z, kb, hpad, hexec⟩ := exec_eq_loadKey hi
      exact .inr ⟨z, kb, hpad, hexec s, hexec s'⟩
    · exact .inl (exec_alike h hi)

/-- R33: a command ends in both states with a response on offer, and they stay indistinguishable. -/
theorem execCommand_indistinguishable (c : Command) :
    ∃ t t', execCommand c s = .next t ∧ execCommand c s' = .next t' ∧ Indistinguishable t t' := by
  rcases execCommand_alike_cases h c with ⟨r, -, e, e'⟩ | ⟨z, kb, -, e, e'⟩
  · exact ⟨_, _, e, e', h.offer r⟩
  · exact ⟨_, _, e, e', (h.installKey z kb).offer _⟩

end

/-- Every instruction but LOAD_KEY offers a well-formed response and changes nothing else. -/
theorem exec_offers (s : State) {i : Instr} (hi : i.opcode ≠ .loadKey) :
    ∃ r : Response, r.WellFormed ∧ exec i s = .next (s.offer r) := by
  obtain ⟨r, hr, e, -⟩ := exec_alike (Indistinguishable.refl s) hi
  exact ⟨r, hr, e⟩

/-- R70: everything a command can do: offer a response and change nothing else, or load a key. -/
theorem execCommand_cases (c : Command) (s : State) :
    (∃ r : Response, r.WellFormed ∧ execCommand c s = .next (s.offer r))
      ∨ ∃ z kb, PaddedKey z kb ∧ execCommand c s = loadKey z kb s := by
  rcases execCommand_alike_cases (Indistinguishable.refl s) c with ⟨r, hr, e, -⟩ | ⟨z, kb, hpad, e, -⟩
  · exact .inl ⟨r, hr, e⟩
  · exact .inr ⟨z, kb, hpad, e⟩

/-! The step: the command in it, and what it makes of the state. -/

/-- The command a step runs: the one in BUSY, or in IDLE the host's next one. -/
def State.stepCommand (s : State) : Option Command :=
  match s.phase with
  | .idle => s.pending.head?
  | .busy c _ => some c
  | .respond _ => none

section
variable {s : State}

/-- R70: a step runs its command and takes the response. -/
theorem step_of_command {c : Command} (hc : s.stepCommand = some c) :
    step s = andThen (execCommand c s) fun t => .next (deliver t) := by
  unfold State.stepCommand at hc
  unfold step runTransaction
  cases hp : s.phase with
  | idle => cases hq : s.pending <;> simp_all
  | busy => simp_all
  | respond => simp_all

/-- R273, R278: without a command a step takes the response on offer, if there is one. -/
theorem step_of_no_command (hc : s.stepCommand = none) : step s = .next (deliver s) := by
  unfold State.stepCommand at hc
  unfold step runTransaction deliver
  cases hp : s.phase with
  | idle => cases hq : s.pending <;> simp_all
  | busy => simp_all
  | respond => simp_all

end

theorem stepCommand_eq_of_indistinguishable {s s' : State} (h : Indistinguishable s s') :
    s.stepCommand = s'.stepCommand := by
  unfold State.stepCommand
  rw [h.phase_eq, h.pending_eq]

theorem step_indistinguishable {s s' : State} (h : Indistinguishable s s') :
    ∃ t t', step s = .next t ∧ step s' = .next t' ∧ Indistinguishable t t' := by
  have hcmd := stepCommand_eq_of_indistinguishable h
  cases hc : s.stepCommand with
  | none => exact ⟨_, _, step_of_no_command hc, step_of_no_command (hcmd ▸ hc), h.deliver⟩
  | some c =>
    obtain ⟨t, t', e, e', ht⟩ := execCommand_indistinguishable h c
    rw [step_of_command hc, step_of_command (hcmd ▸ hc), e, e']
    exact ⟨_, _, rfl, rfl, ht.deliver⟩

theorem run_succ_of_step {s t : State} (n : Nat) (h : step s = .next t) :
    Sys2Proof.core.run (n + 1) s = Sys2Proof.core.run n t := by
  have hcore : Sys2Proof.core.step s = .next t := h
  simp only [Host.Core.run, hcore]

/-! The invariant (R26, R27, R69, R281). -/

section
variable {s : State}

/-- A well-formed response may be offered. -/
theorem offer_inv {r : Response} (hs : s.Inv) (hr : r.WellFormed) : (s.offer r).Inv := by
  obtain ⟨hsched, -, hresp, hpast⟩ := hs
  exact ⟨hsched, hr, hresp, hpast⟩

/-- A key load keeps the invariant whatever key it installs: it overwrites the old schedule. -/
theorem installKey_inv {z : KeySize} {kb : Bytes32} (hs : s.Inv) (hpad : PaddedKey z kb) : (s.installKey z kb).Inv := by
  obtain ⟨-, hphase, hresp, hpast⟩ := hs
  exact ⟨installKey_scheduleInv s z kb hpad, hphase, hresp, hpast⟩

theorem execCommand_inv {c : Command} {t : State} (hs : s.Inv) (h : execCommand c s = .next t) : t.Inv := by
  rcases execCommand_cases c s with ⟨r, hr, e⟩ | ⟨z, kb, hpad, e⟩
  · rw [e] at h
    cases h
    exact offer_inv hs hr
  · rw [e, loadKey_eq] at h
    cases h
    exact offer_inv (installKey_inv hs hpad) fun hok => absurd rfl hok

/-- The response on offer is well formed. -/
theorem State.Inv.respond_wellFormed {r : Response} (hs : s.Inv) (hp : s.phase = .respond r) : r.WellFormed := by
  obtain ⟨-, hphase, -⟩ := hs
  simpa [State.PhaseInv, hp] using hphase

theorem deliver_inv (hs : s.Inv) : (deliver s).Inv := by
  unfold deliver
  split
  next r hp =>
    have hr := hs.respond_wellFormed hp
    obtain ⟨hsched, -, hresp, hpast⟩ := hs
    exact takeResponse_inv s r hsched hr hresp hpast
  all_goals exact hs

theorem step_inv {t : State} (hs : s.Inv) (h : step s = .next t) : t.Inv := by
  cases hc : s.stepCommand with
  | none =>
    rw [step_of_no_command hc] at h
    cases h
    exact deliver_inv hs
  | some c =>
    rw [step_of_command hc] at h
    obtain ⟨u, hu, hut⟩ := andThen_eq_next h
    cases hut
    exact deliver_inv (execCommand_inv hs hu)

/-- R281: every latency is at least one cycle. -/
theorem latencyOf_pos (p : Config.Params) (active : Option KeySize) (cw : BitVec 16) : 1 ≤ latencyOf p active cw :=
  Nat.le_add_left 1 _

/-- A phase that meets its own condition may replace the present one. -/
theorem State.Inv.withPhase {p : Phase} (hs : s.Inv) (hp : ({ s with phase := p } : State).PhaseInv) :
    ({ s with phase := p } : State).Inv := by
  obtain ⟨hsched, -, hresp, hpast⟩ := hs
  exact ⟨hsched, hp, hresp, hpast⟩

/-- R270: reset keeps the invariant: without a key it asks nothing of `KEY` and `W`. -/
theorem resetCore_inv (hs : s.Inv) : s.resetCore.Inv := by
  obtain ⟨-, -, hresp, hpast⟩ := hs
  exact ⟨fun hv => (nomatch hv), trivial, hresp, hpast⟩

/-- R279: an edge in IDLE without reset accepts the command on offer. -/
theorem clock_idle {inp : PortIn} (hrst : inp.rst = false) (hp : s.phase = .idle) :
    clock inp s
      = .next (if inp.cmdValid then s.accept { cw := inp.cmdWord, cdata := unpackBus inp.cmdData } else s) := by
  unfold clock
  rw [hrst, hp]
  cases inp.cmdValid <;> rfl

/-- R278, R281: an edge in BUSY without reset counts down, and at the end runs the command. -/
theorem clock_busy {inp : PortIn} {c : Command} {left : Nat} (hrst : inp.rst = false) (hp : s.phase = .busy c left) :
    clock inp s = if left ≤ 1 then execCommand c s else .next { s with phase := .busy c (left - 1) } := by
  unfold clock
  rw [hrst, hp]
  rfl

/-- R279: an edge in RESPOND without reset waits for `rsp_ready`. -/
theorem clock_respond {inp : PortIn} {r : Response} (hrst : inp.rst = false) (hp : s.phase = .respond r) :
    clock inp s = .next (if inp.rspReady then { s with phase := .idle } else s) := by
  unfold clock
  rw [hrst, hp]
  cases inp.rspReady <;> rfl

theorem clock_inv {inp : PortIn} {t : State} (hs : s.Inv) (h : clock inp s = .next t) : t.Inv := by
  cases hrst : inp.rst with
  | true =>
    rw [clock_reset s inp hrst] at h
    cases h
    exact resetCore_inv hs
  | false =>
    cases hp : s.phase with
    | idle =>
      rw [clock_idle hrst hp] at h
      cases h
      split_ifs
      · exact hs.withPhase (latencyOf_pos _ _ _)
      · exact hs
    | busy c left =>
      rw [clock_busy hrst hp] at h
      split_ifs at h with hleft
      · exact execCommand_inv hs h
      · cases h
        exact hs.withPhase (show 1 ≤ left - 1 by omega)
    | respond r =>
      rw [clock_respond hrst hp] at h
      cases h
      split_ifs
      · exact hs.withPhase trivial
      · exact hs

/-- R287: the run that a reset closes is recorded with its responses, all well formed. -/
theorem closeRun_inv {t : State} (hs : s.Inv) (ht : t.Inv) : (closeRun s t).Inv := by
  obtain ⟨-, -, hresp, -⟩ := hs
  obtain ⟨hsched, hphase, hresp', hpast⟩ := ht
  unfold closeRun
  split_ifs
  · refine ⟨hsched, hphase, fun r hr => (nomatch hr), fun p hp => ?_⟩
    rcases List.mem_append.mp hp with hp | hp
    · exact hpast p hp
    · obtain rfl := List.mem_singleton.mp hp
      exact closedRun_wellFormed s hresp
  · exact ⟨hsched, hphase, hresp', hpast⟩

/-- R279: a response is taken only from the pins. -/
theorem phase_of_takenResponse {inp : PortIn} {r : Response} (h : takenResponse inp s = some r) :
    s.phase = .respond r := by
  unfold takenResponse at h
  split at h
  next q hp =>
    split_ifs at h
    cases h
    exact hp
  all_goals cases h

theorem hostMoves_inv {inp : PortIn} {t : State} (hs : s.Inv) (ht : t.Inv) : (hostMoves inp s t).Inv := by
  unfold hostMoves
  split_ifs
  · exact closeRun_inv hs ht
  · split
    next r hr =>
      have hwf := hs.respond_wellFormed (phase_of_takenResponse hr)
      obtain ⟨hsched, hphase, hresp, hpast⟩ := ht
      refine ⟨hsched, hphase, fun q hq => ?_, hpast⟩
      rcases List.mem_append.mp hq with hq | hq
      · exact hresp q hq
      · obtain rfl := List.mem_singleton.mp hq
        exact hwf
    next => exact ht

theorem cycle_inv {rst rdy : Bool} {t : State} (hs : s.Inv) (h : cycle rst rdy s = .next t) : t.Inv := by
  obtain ⟨u, hu, hut⟩ := andThen_eq_next h
  cases hut
  exact hostMoves_inv hs (clock_inv hs hu)

end

/-! The obligations of the family. -/

/-- Settles O2: there is no key at reset, no response, and no closed run. -/
theorem invariantHoldsAtReset : Obligations.InvariantHoldsAtReset :=
  ⟨fun hv => (nomatch hv), trivial, fun _ hr => (nomatch hr), fun _ hp => (nomatch hp)⟩

/-- Settles O3: a command offers a well-formed response and at most loads a padded key, and the taking of the response
keeps the rest. -/
theorem everyStepKeepsTheInvariant : Obligations.EveryStepKeepsTheInvariant := fun _ _ => step_inv

/-- Settles O4: by the phase of the core on the edge, and by what the host then does. -/
theorem everyClockEdgeKeepsTheInvariant : Obligations.EveryClockEdgeKeepsTheInvariant :=
  ⟨fun _ _ _ => clock_inv, fun _ _ _ _ => cycle_inv⟩

/-- Settles O1: with a key the view shows the registers, and these meet R26 by the invariant or by the key load. -/
theorem coreViewSummary : Obligations.CoreViewSummary := by
  refine ⟨rfl, fun s hs hview => ?_, fun i s hi => ?_⟩
  · have hv : s.keyValid = true := (coreView_keyValid s).symm.trans hview
    obtain ⟨hsched, -⟩ := hs
    obtain ⟨-, hmatch⟩ := hsched hv
    exact ⟨s.key, s.ksz, s.w, coreView_valid hv, hmatch⟩
  · obtain ⟨z, kb, -, hexec⟩ := exec_eq_loadKey hi
    exact ⟨_, kb, z, _, (hexec s).trans (loadKey_eq s z kb), coreView_valid rfl, installKey_scheduleMatches s z kb⟩

/-- Settles O21: a LOAD_KEY is a key load of its bytes with zeros above; every other instruction only offers its
response. -/
theorem loadKeyWritesTheKeyRegisters : Obligations.LoadKeyWritesTheKeyRegisters := by
  refine ⟨fun s k => ?_, fun s k => ?_, fun s k => ?_, fun i s t h hi => ?_⟩
  · exact loadKey_keyLoaded s .aes128 (pad32_getElem_eq_getD k)
  · exact loadKey_keyLoaded s .aes192 (pad32_getElem_eq_getD k)
  · exact loadKey_keyLoaded s .aes256 fun i hi => by simp [hi]
  · obtain ⟨r, -, e⟩ := exec_offers s hi
    rw [e] at h
    cases h
    rfl

/-- Settles O43, by induction on the number of steps: no command reads `KEY` or `KSZ` without a key or `W` beyond the
schedule, and a key load leaves the same specified contents in both machines. -/
theorem unspecifiedContentsAreNeverObserved : Obligations.UnspecifiedContentsAreNeverObserved := by
  intro n
  induction n with
  | zero => exact fun s s' h => ⟨s, s', rfl, rfl, h⟩
  | succ n ih =>
    intro s s' h
    obtain ⟨t, t', e, e', ht⟩ := step_indistinguishable h
    rw [run_succ_of_step n e, run_succ_of_step n e']
    exact ih t t' ht

end Sys2Proof.Machine
end

section

/-! The memory family (20_memory.md): the 256-bit bus (R48), what an instruction leaves unchanged (R50, R51), and the run
of a host's program, one response for each command (R53, R79). -/

set_option autoImplicit false

namespace Sys2Proof

/-! The bus (R48). -/

/-- One step of the packing: the bus moves up by a byte, and the new byte stands lowest. -/
def shiftInByte (x : BitVec 256) (b : Byte) : BitVec 256 := (x <<< 8) ||| b.setWidth 256

theorem packBus_eq_foldl (d : Bytes32) : packBus d = d.toList.foldl shiftInByte 0 := rfl

theorem shiftInByte_getLsbD_low (x : BitVec 256) (b : Byte) {j : Nat} (hj : j < 8) :
    (shiftInByte x b).getLsbD j = b.getLsbD j := by
  simp [shiftInByte, hj, show j < 256 by omega]

theorem shiftInByte_getLsbD_high (x : BitVec 256) (b : Byte) {i : Nat} (hi : i + 8 < 256) :
    (shiftInByte x b).getLsbD (i + 8) = x.getLsbD i := by
  simp [shiftInByte, hi, BitVec.getLsbD_eq_getElem (show i < 256 by omega)]

/-- After packing at most 32 bytes, byte `k` stands as many bytes above bit 0 as bytes follow it. -/
theorem foldl_shiftInByte_getLsbD (l : List Byte) (hl : l.length ≤ 32) (k : Nat) (hk : k < l.length) {j : Nat}
    (hj : j < 8) : (l.foldl shiftInByte 0).getLsbD (8 * (l.length - 1 - k) + j) = l[k].getLsbD j := by
  induction l using List.reverseRecOn with
  | nil => cases hk
  | append_singleton l b ih =>
    rw [List.length_append, List.length_singleton] at hl hk
    rw [List.foldl_append, List.foldl_cons, List.foldl_nil, List.length_append, List.length_singleton]
    rcases Nat.lt_or_eq_of_le (Nat.le_of_lt_succ hk) with hlt | rfl
    · have hpos : 8 * (l.length + 1 - 1 - k) + j = 8 * (l.length - 1 - k) + j + 8 := by omega
      rw [hpos, shiftInByte_getLsbD_high _ _ (by omega), ih (by omega) hlt, List.getElem_append_left hlt]
    · have hpos : 8 * (l.length + 1 - 1 - l.length) + j = j := by omega
      rw [hpos, shiftInByte_getLsbD_low _ _ hj, List.getElem_concat_length rfl]

/-- R48: bit `j` of byte `k` on the bus. -/
theorem packBus_getLsbD (d : Bytes32) (k : Nat) (hk : k < 32) {j : Nat} (hj : j < 8) :
    (packBus d).getLsbD (248 - 8 * k + j) = d[k].getLsbD j := by
  have hlen : d.toList.length = 32 := Vector.length_toList
  have hbit := foldl_shiftInByte_getLsbD d.toList hlen.le k (by omega) hj
  have hpos : 8 * (d.toList.length - 1 - k) + j = 248 - 8 * k + j := by omega
  rwa [hpos, Vector.getElem_toList] at hbit

theorem unpackBus_packBus (d : Bytes32) : unpackBus (packBus d) = d := by
  apply Vector.ext
  intro k hk
  apply BitVec.eq_of_getLsbD_eq
  intro j hj
  rw [unpackBus, Vector.getElem_ofFn, BitVec.getLsbD_extractLsb', packBus_getLsbD d k hk hj]
  simp [hj]

/-- Settles O51: packing shifts the bytes in one after another, so the bytes after byte `k` lift it to its place. -/
theorem busPackingKeepsEveryByte : Obligations.BusPackingKeepsEveryByte :=
  fun d => ⟨unpackBus_packBus d, fun k hk _ hj => packBus_getLsbD d k hk hj⟩

/-! Decode keeps the opcode (R65). -/

@[simp] theorem bindOperands_opcode (op : Opcode) (z : KeySize) (arg : Byte) (d : Bytes32) :
    (bindOperands op z arg d).opcode = op := by
  cases op with
  | loadKey => cases z <;> rfl
  | _ => rfl

end Sys2Proof

namespace Sys2Proof.Machine

open Sys2Proof.Claims

/-! Frames (R50, R51). -/

/-- The parameters and the host's side are the same in both states. -/
def SameHostSide (s t : State) : Prop :=
  t.params = s.params ∧ t.pending = s.pending ∧ t.responses = s.responses ∧ t.pastRuns = s.pastRuns

/-- R51: only a LOAD_KEY changes more than the response on offer. -/
theorem eq_offer_of_exec {i : Instr} {s t : State} (h : exec i s = .next t) (hi : i.opcode ≠ .loadKey) :
    ∃ r, t = s.offer r := by
  obtain ⟨r, -, e⟩ := exec_offers s hi
  rw [e] at h
  cases h
  exact ⟨r, rfl⟩

theorem exec_sameHostSide {i : Instr} {s t : State} (h : exec i s = .next t) : SameHostSide s t := by
  by_cases hi : i.opcode = .loadKey
  · obtain ⟨z, kb, -, e⟩ := exec_eq_loadKey hi
    rw [e, loadKey_eq] at h
    cases h
    exact ⟨rfl, rfl, rfl, rfl⟩
  · obtain ⟨r, rfl⟩ := eq_offer_of_exec h hi
    exact ⟨rfl, rfl, rfl, rfl⟩

/-- Settles O19: a LOAD_KEY writes the key registers alone, and every other instruction only offers its response. -/
theorem frameOfEveryInstruction : Obligations.FrameOfEveryInstruction :=
  fun _ _ _ h => ⟨eq_offer_of_exec h, exec_sameHostSide h⟩

/-! Repetition (R51). -/

/-- R205: a LOAD_KEY writes the same response and the same specified contents in every state. -/
theorem exec_loadKey_writes {i : Instr} (hi : i.opcode = .loadKey) :
    ∃ z kb, ∀ s t : State, exec i s = .next t →
      t.phase = .respond { status := .ok, rksz := 0, rdata := zero32 } ∧ t.key = kb ∧ t.ksz = z ∧ t.keyValid = true
        ∧ t.ScheduleMatches := by
  obtain ⟨z, kb, -, e⟩ := exec_eq_loadKey hi
  refine ⟨z, kb, fun s t h => ?_⟩
  rw [e, loadKey_eq] at h
  cases h
  exact ⟨rfl, rfl, rfl, rfl, installKey_scheduleMatches s z kb⟩

/-- R26: the specified words of `W` are a function of the key and its size. -/
theorem State.ScheduleMatches.sameSchedule {s t : State} (hs : s.ScheduleMatches) (ht : t.ScheduleMatches)
    (hkey : s.key = t.key) (hksz : s.ksz = t.ksz) : SameSchedule t.ksz s.w t.w := by
  intro k hk hl
  apply Option.some_injective
  rw [← hs k hk (hksz ▸ hl), ← ht k hk hl, hkey, hksz]

/-- R241, R243: a command whose word is no LOAD_KEY, rejected or not, only offers its response. -/
theorem execCommand_offers {c : Command} {s : State} (h : ∀ z a, decodeWord s.params c.cw ≠ .cmd .loadKey z a) :
    ∃ r, execCommand c s = .next (s.offer r) := by
  unfold execCommand decode
  cases hw : decodeWord s.params c.cw with
  | illegal => exact ⟨_, raise_eq s .illegal⟩
  | badKeySize => exact ⟨_, raise_eq s .keySize⟩
  | cmd op z arg =>
    have hop : (bindOperands op z arg c.cdata).opcode ≠ .loadKey := by
      rw [bindOperands_opcode]
      rintro rfl
      exact h z arg hw
    obtain ⟨r, -, e⟩ := exec_offers s hop
    exact ⟨r, e⟩

/-- R70: the step of an idle core runs the host's next command and takes its response. -/
theorem step_of_issues {s : State} {c : Command} {cs : List Command} (h : Issues s c cs) :
    step s = andThen (execCommand c s) fun t => .next (deliver t) := by
  obtain ⟨hidle, hpend⟩ := h
  exact step_of_command (by simp [State.stepCommand, hidle, hpend])

theorem takeResponse_eq_delivered {s : State} {c : Command} {cs : List Command} (h : Issues s c cs) (r : Response) :
    s.takeResponse r = delivered s cs r := by
  obtain ⟨-, hpend⟩ := h
  simp [State.takeResponse, delivered, hpend]

/-- Settles O20: a command other than LOAD_KEY meets the very state it met before, and a LOAD_KEY overwrites what it
wrote with the same key and schedule. -/
theorem commandsAreIdempotent : Obligations.CommandsAreIdempotent := by
  refine ⟨fun s t c cs hs ht hword => ?_, fun i s t u ht hu => ?_⟩
  · obtain ⟨r, e⟩ := execCommand_offers hword
    rw [step_of_issues hs, e, andThen_next, deliver_offer, takeResponse_eq_delivered hs] at ht
    cases ht
    exact ⟨r, rfl⟩
  · obtain ⟨hparams, hpend, hresp, hpast⟩ := exec_sameHostSide hu
    by_cases hi : i.opcode = .loadKey
    · obtain ⟨z, kb, hload⟩ := exec_loadKey_writes hi
      obtain ⟨hphase, hkey, hksz, hvalid, hw⟩ := hload _ _ ht
      obtain ⟨hphase', hkey', hksz', hvalid', hw'⟩ := hload _ _ hu
      have hk := hkey'.trans hkey.symm
      have hz := hksz'.trans hksz.symm
      exact ⟨hphase'.trans hphase.symm, hk, hz, hvalid'.trans hvalid.symm, hparams, hpend, hresp, hpast,
        fun hne => absurd hi hne, hw'.sameSchedule hw hk hz⟩
    · obtain ⟨r, rfl⟩ := eq_offer_of_exec ht hi
      obtain rfl : u = s.offer r := Host.Outcome.next.inj (hu.symm.trans ht)
      exact ⟨rfl, rfl, rfl, rfl, hparams, hpend, hresp, hpast, fun _ => rfl, fun _ _ _ => rfl⟩

/-! The run of a program (R53, R79). -/

/-- R70: a command ends with a response on offer and leaves the host's side. -/
theorem execCommand_answers (c : Command) (s : State) :
    ∃ u r, execCommand c s = .next (u.offer r) ∧ SameHostSide s u := by
  rcases execCommand_cases c s with ⟨r, -, e⟩ | ⟨z, kb, -, e⟩
  · exact ⟨s, r, e, rfl, rfl, rfl, rfl⟩
  · exact ⟨s.installKey z kb, _, e.trans (loadKey_eq s z kb), rfl, rfl, rfl, rfl⟩

/-- What the step of an idle core's next command leaves of the host's side: the other commands, and one response more. -/
def StepAnswers (s t : State) (cs : List Command) (r : Response) : Prop :=
  t.phase = .idle ∧ t.pending = cs ∧ t.responses = s.responses ++ [r] ∧ t.pastRuns = s.pastRuns

theorem step_answers {s : State} {c : Command} {cs : List Command} (h : Issues s c cs) :
    ∃ t r, step s = .next t ∧ StepAnswers s t cs r := by
  obtain ⟨u, r, e, -, hpend, hresp, hpast⟩ := execCommand_answers c s
  have hstep : step s = .next (u.takeResponse r) := by rw [step_of_issues h, e, andThen_next, deliver_offer]
  obtain ⟨-, hcs⟩ := h
  refine ⟨_, r, hstep, rfl, ?_, ?_, hpast⟩
  · rw [takeResponse_pending, hpend, hcs, List.tail_cons]
  · rw [takeResponse_responses, hresp]

/-- Settles O8: the step takes one command from the program, and the run begins with that step. -/
theorem runIsStepThenRun : Obligations.RunIsStepThenRun := by
  intro s t c cs hs ht
  obtain ⟨v, r, hv, hidle, hpend, -⟩ := step_answers hs
  rw [ht] at hv
  cases hv
  exact ⟨hidle, hpend, run_succ_of_step cs.length ht⟩

/-- R79: command `k` of the program is issued after `k` steps, and its step delivers `r`. -/
def AnsweredAfter (s : State) (k : Nat) (c : Command) (cs : List Command) (r : Response) : Prop :=
  ∃ u v, Sys2Proof.core.run k s = .next u ∧ Issues u c cs ∧ step u = .next v
    ∧ State.responses v = State.responses u ++ [r]

theorem AnsweredAfter.succ_of_step {s t : State} {k : Nat} {c : Command} {cs : List Command} {r : Response}
    (hst : step s = .next t) (h : AnsweredAfter t k c cs r) : AnsweredAfter s (k + 1) c cs r := by
  obtain ⟨u, v, hu, hrest⟩ := h
  exact ⟨u, v, (run_succ_of_step k hst).trans hu, hrest⟩

/-- The run of a program `cs` from an idle core, by induction on the program. -/
theorem run_answers_program (cs : List Command) (s : State) (hidle : s.phase = .idle) (hpend : s.pending = cs) :
    ∃ t rs, Sys2Proof.core.run cs.length s = .next t ∧ State.RunEnded t
      ∧ State.responses t = s.responses ++ rs ∧ rs.length = cs.length ∧ State.pastRuns t = s.pastRuns
      ∧ ∀ (k : Nat) (h : k < cs.length), ∃ r, rs[k]? = some r ∧ AnsweredAfter s k cs[k] (cs.drop (k + 1)) r := by
  induction cs generalizing s with
  | nil => exact ⟨s, [], rfl, ⟨hidle, hpend⟩, (List.append_nil _).symm, rfl, rfl, fun _ h => nomatch h⟩
  | cons c cs ih =>
    have hs : Issues s c cs := ⟨hidle, hpend⟩
    obtain ⟨t₁, r₁, hstep, hidle₁, hpend₁, hresp₁, hpast₁⟩ := step_answers hs
    obtain ⟨t, rs, hrun, hended, hresp, hlen, hpast, hturn⟩ := ih t₁ hidle₁ hpend₁
    refine ⟨t, r₁ :: rs, (run_succ_of_step cs.length hstep).trans hrun, hended, ?_, ?_, hpast.trans hpast₁, ?_⟩
    · rw [hresp, hresp₁, List.append_assoc, List.singleton_append]
    · rw [List.length_cons, List.length_cons, hlen]
    · intro k hk
      cases k with
      | zero => exact ⟨r₁, rfl, s, t₁, rfl, hs, hstep, hresp₁⟩
      | succ k =>
        obtain ⟨r, hr, hafter⟩ := hturn k (Nat.lt_of_succ_lt_succ hk)
        exact ⟨r, hr, hafter.succ_of_step hstep⟩

/-- Settles O7: each step answers the next command of the program. -/
theorem programRunGivesOneResponsePerCommand : Obligations.ProgramRunGivesOneResponsePerCommand := by
  intro s hidle
  obtain ⟨t, rs, hrun, hended, hresp, hlen, hpast, hturn⟩ := run_answers_program s.pending s hidle rfl
  refine ⟨t, rs, hrun, hended, hresp, hlen, hpast, fun k hk => ?_⟩
  obtain ⟨r, hr, u, v, hu, hissues, hstep, hv⟩ := hturn k hk
  exact ⟨u, v, r, hu, hissues, hstep, hr, hv⟩

end Sys2Proof.Machine
end

section

/-! The encoding family (30_encoding.md): what a command word decodes to, read off the fields it is packed from (R61 to
R67); the data bytes that a command reads and writes (R64, R71); the assembler (R73, R74). -/

set_option autoImplicit false

namespace Sys2Proof

/-! Decode of a packed word (R66). -/

theorem KeySize.code_of_ofCode {c : BitVec 2} {z : KeySize} (h : KeySize.ofCode? c = some z) : z.code = c := by
  have all : ∀ c : BitVec 2, ∀ z ∈ KeySize.ofCode? c, z.code = c := by decide
  exact all c z h

/-- R7: the reserved code alone has no key size. -/
theorem KeySize.ofCode_eq_none_iff (c : BitVec 2) : KeySize.ofCode? c = none ↔ c = 0b11 := by
  revert c
  decide

/-- What R66 asks of an opcode with its key size and argument: a unit command is implemented, only a LOAD_KEY has a key
size, and an opcode that takes no argument has none. -/
def FieldsAllowed (p : Config.Params) (op : Opcode) (z : KeySize) (arg : Byte) : Prop :=
  (op.isUnit = true → p.unitCmds = true) ∧ (op ≠ .loadKey → z = .aes128) ∧ (op.takesArg = false → arg = 0)

/-- The word of an opcode with fields that R66 allows it decodes to them. -/
theorem decodeWord_packWord {p : Config.Params} {op : Opcode} {z : KeySize} {arg : Byte}
    (h : FieldsAllowed p op z arg) : decodeWord p (packWord op.code z.code arg) = .cmd op z arg := by
  obtain ⟨hunit, hz, harg⟩ := h
  by_cases hop : op = .loadKey
  · subst hop
    simp [decodeWord, harg rfl]
  · obtain rfl := hz hop
    rw [decodeWord_packWord_of_ne_loadKey p hop]
    split_ifs <;> simp_all [KeySize.code]

/-- R67: the LOAD_KEY word with the reserved key size. -/
theorem decodeWord_badKeySize (p : Config.Params) : decodeWord p 0x0061 = .badKeySize := rfl

/-- R66: everything a command word can be. -/
theorem decodeWord_cases (p : Config.Params) (cw : BitVec 16) :
    decodeWord p cw = .illegal ∨ cw = 0x0061
      ∨ ∃ op z arg, cw = packWord op.code z.code arg ∧ FieldsAllowed p op z arg := by
  by_cases hill : decodeWord p cw = .illegal
  · exact .inl hill
  · obtain ⟨op, ksz, arg, rfl, hunit, hksz, harg⟩ := (decodeWord_ne_illegal_iff p cw).mp hill
    cases hz : KeySize.ofCode? ksz with
    | none =>
      obtain rfl := (KeySize.ofCode_eq_none_iff ksz).mp hz
      obtain rfl : op = .loadKey := by
        by_contra hop
        exact absurd (hksz hop) (by decide)
      obtain rfl := harg rfl
      exact .inr (.inl rfl)
    | some z =>
      obtain rfl := KeySize.code_of_ofCode hz
      refine .inr (.inr ⟨op, z, arg, rfl, hunit, fun hop => ?_, harg⟩)
      have hcode := hksz hop
      cases z with
      | aes128 => rfl
      | aes192 | aes256 => cases hcode

/-- R66: a word decodes to a command exactly when it is packed from fields that the opcode is allowed. -/
theorem decodeWord_eq_cmd_iff (p : Config.Params) (cw : BitVec 16) (op : Opcode) (z : KeySize) (arg : Byte) :
    decodeWord p cw = .cmd op z arg ↔ cw = packWord op.code z.code arg ∧ FieldsAllowed p op z arg := by
  constructor
  · intro h
    rcases decodeWord_cases p cw with hill | rfl | ⟨op', z', arg', rfl, hfields⟩
    · rw [hill] at h
      cases h
    · rw [decodeWord_badKeySize] at h
      cases h
    · rw [decodeWord_packWord hfields] at h
      cases h
      exact ⟨rfl, hfields⟩
  · rintro ⟨rfl, hfields⟩
    exact decodeWord_packWord hfields

theorem decodeWord_eq_badKeySize_iff (p : Config.Params) (cw : BitVec 16) :
    decodeWord p cw = .badKeySize ↔ cw = 0x0061 := by
  constructor
  · intro h
    rcases decodeWord_cases p cw with hill | hcw | ⟨op, z, arg, rfl, hfields⟩
    · rw [hill] at h
      cases h
    · exact hcw
    · rw [decodeWord_packWord hfields] at h
      cases h
  · rintro rfl
    exact decodeWord_badKeySize p

/-- R66: a command decodes to an instruction exactly when its word decodes to an opcode with fields and the instruction
is what binding the operands gives. -/
theorem decode_eq_cmd_iff (p : Config.Params) (c : Command) (i : Instr) :
    decode p c = .cmd i
      ↔ ∃ op z arg, c.cw = packWord op.code z.code arg ∧ FieldsAllowed p op z arg
          ∧ bindOperands op z arg c.cdata = i := by
  have hword : decode p c = .cmd i
      ↔ ∃ op z arg, decodeWord p c.cw = .cmd op z arg ∧ bindOperands op z arg c.cdata = i := by
    unfold decode
    cases decodeWord p c.cw <;> simp
  simp only [hword, decodeWord_eq_cmd_iff, and_assoc]

/-! The fields of an instruction (R61 to R65), and of the one that decode binds. -/

/-- R205: the key size of a LOAD_KEY; AES-128, whose code is 0, for every other instruction. -/
def Instr.keySize : Instr → KeySize
  | .loadKey192 _ => .aes192
  | .loadKey256 _ => .aes256
  | _ => .aes128

theorem Instr.kszBits_eq_code (i : Instr) : i.kszBits = i.keySize.code := by cases i <;> rfl

theorem Instr.isUnit_eq_opcode_isUnit (i : Instr) : i.isUnit = i.opcode.isUnit := by cases i <;> rfl

theorem Instr.wellFormed_iff (p : Config.Params) (i : Instr) :
    i.wellFormed p = true ↔ (i.opcode.isUnit = true → p.unitCmds = true) := by
  rw [wellFormed, isUnit_eq_opcode_isUnit]
  cases i.opcode.isUnit <;> simp

theorem encode_cw (i : Instr) : (encode i).cw = packWord i.opcode.code i.keySize.code i.argBits := by
  rw [← Instr.kszBits_eq_code]
  rfl

/-- The fields of an implemented instruction are ones that R66 allows. -/
theorem Instr.fieldsAllowed {p : Config.Params} {i : Instr} (h : i.wellFormed p = true) :
    FieldsAllowed p i.opcode i.keySize i.argBits := by
  refine ⟨(i.wellFormed_iff p).mp h, fun hop => ?_, fun harg => ?_⟩
  · cases i with
    | loadKey192 | loadKey256 => exact absurd rfl hop
    | _ => rfl
  · cases i with
    | readSchedWord | sbox | invSbox | xtime | addRoundKey | encRound | decRound => cases harg
    | _ => rfl

/-- R63, R64: binding an instruction's own fields and data operand gives it back. -/
theorem bindOperands_dataOperand (i : Instr) : bindOperands i.opcode i.keySize i.argBits i.dataOperand = i := by
  have hblk : ∀ blk : Block, takeBytes 16 (pad32 blk) = blk := takeBytes_pad32 (by decide)
  cases i with
  | readKey | readSchedWord | sbox | invSbox | xtime | loadKey256 => rfl
  | loadKey192 key => exact congrArg Instr.loadKey192 (takeBytes_pad32 (by decide) key)
  | _ => simp only [bindOperands, Instr.opcode, Instr.keySize, Instr.argBits, Instr.dataOperand, hblk]

theorem bindOperands_keySize {p : Config.Params} {op : Opcode} {z : KeySize} {arg : Byte}
    (h : FieldsAllowed p op z arg) (d : Bytes32) : (bindOperands op z arg d).keySize = z := by
  obtain ⟨-, hz, -⟩ := h
  cases op with
  | loadKey => cases z <;> rfl
  | _ => exact (hz (by decide)).symm

theorem bindOperands_argBits {p : Config.Params} {op : Opcode} {z : KeySize} {arg : Byte}
    (h : FieldsAllowed p op z arg) (d : Bytes32) : (bindOperands op z arg d).argBits = arg := by
  obtain ⟨-, -, harg⟩ := h
  cases op with
  | readSchedWord | sbox | invSbox | xtime | addRoundKey | encRound | decRound => rfl
  | loadKey => cases z <;> exact (harg rfl).symm
  | _ => exact (harg rfl).symm

/-- Settles O9: the fields of an implemented instruction are allowed, so its word decodes to them, and the data operand
holds the bytes that binding takes. -/
theorem decodeOfEncodeIsTheInstruction : Obligations.DecodeOfEncodeIsTheInstruction := by
  intro p i hwf
  exact (decode_eq_cmd_iff p (encode i) i).mpr
    ⟨_, _, _, encode_cw i, i.fieldsAllowed hwf, bindOperands_dataOperand i⟩

/-! The data bytes that an instruction reads (R64, R71). -/

/-- An operand padded again holds the bytes it was taken from, and zeros. -/
theorem pad32_takeBytes_getElem (n : Nat) (d : Bytes32) (k : Nat) (h : k < 32) :
    (pad32 (takeBytes n d))[k] = if k < n then d[k] else 0 := by
  rw [pad32_getElem]
  split_ifs with hk
  · exact takeBytes_getElem n d k hk h
  · rfl

theorem takeBytes_congr {n : Nat} {d d' : Bytes32} (h : ∀ (k : Nat) (_ : k < 32), k < n → d'[k] = d[k]) :
    takeBytes n d' = takeBytes n d := by
  apply Vector.ext
  intro k hk
  simp only [takeBytes, Vector.getElem_ofFn]
  split_ifs with h32
  · exact h k h32 hk
  · rfl

/-- R71: the data operand of a bound instruction is zero on the bytes that R64 does not list. -/
theorem bindOperands_dataOperand_getElem (op : Opcode) (z : KeySize) (arg : Byte) (d : Bytes32) (k : Nat)
    (h : k < 32) :
    (bindOperands op z arg d).dataOperand[k] = if k < (bindOperands op z arg d).operandBytes then d[k] else 0 := by
  cases op with
  | loadKey =>
    cases z with
    | aes128 | aes192 => exact pad32_takeBytes_getElem _ d k h
    | aes256 => exact (if_pos h).symm
  | readKey | readSchedWord | sbox | invSbox | xtime => exact Vector.getElem_replicate h
  | _ => exact pad32_takeBytes_getElem 16 d k h

/-- R71: binding reads the bytes that R64 lists and no other. -/
theorem bindOperands_congr (op : Opcode) (z : KeySize) (arg : Byte) {d d' : Bytes32}
    (h : ∀ (k : Nat) (_ : k < 32), k < (bindOperands op z arg d).operandBytes → d'[k] = d[k]) :
    bindOperands op z arg d' = bindOperands op z arg d := by
  cases op with
  | loadKey =>
    cases z with
    | aes128 => exact congrArg Instr.loadKey128 (takeBytes_congr h)
    | aes192 => exact congrArg Instr.loadKey192 (takeBytes_congr h)
    | aes256 => exact congrArg Instr.loadKey256 (Vector.ext fun k hk => h k hk hk)
  | readKey | readSchedWord | sbox | invSbox | xtime => rfl
  | _ => simp only [bindOperands, takeBytes_congr (n := 16) h]

/-- Settles O10: a word that decodes is packed from the fields it decodes to, and those are the fields of the bound
instruction. -/
theorem encodeOfDecodeIsTheCommand : Obligations.EncodeOfDecodeIsTheCommand := by
  intro p c i h
  obtain ⟨op, z, arg, hcw, hfields, rfl⟩ := (decode_eq_cmd_iff p c i).mp h
  refine ⟨?_, ?_, bindOperands_dataOperand_getElem op z arg c.cdata⟩
  · obtain ⟨hunit, -⟩ := hfields
    rwa [Instr.wellFormed_iff, bindOperands_opcode]
  · rw [encode_cw, bindOperands_opcode, bindOperands_keySize hfields, bindOperands_argBits hfields, hcw]

/-- R71: a command with the same word and the same listed bytes decodes to the same instruction. -/
theorem decode_congr {p : Config.Params} {c c' : Command} {i : Instr} (h : decode p c = .cmd i) (hcw : c'.cw = c.cw)
    (hdata : ∀ (k : Nat) (_ : k < 32), k < i.operandBytes → c'.cdata[k] = c.cdata[k]) : decode p c' = .cmd i := by
  obtain ⟨op, z, arg, hword, hfields, rfl⟩ := (decode_eq_cmd_iff p c i).mp h
  exact (decode_eq_cmd_iff p c' _).mpr ⟨op, z, arg, hcw.trans hword, hfields, bindOperands_congr op z arg hdata⟩

/-- Settles O11: each word is evaluated by the decoder. -/
theorem writtenWordsDecode : Obligations.WrittenWordsDecode :=
  ⟨⟨_, rfl⟩, rfl, rfl, rfl, ⟨_, rfl⟩, ⟨_, rfl⟩, rfl⟩

end Sys2Proof

/-! The illegal words by their fields as numbers (R67). -/

namespace Sys2Proof

open Sys2Proof.Claims

theorem opField_toNat (cw : BitVec 16) : (opField cw).toNat = cw.toNat % 32 := by
  simp [opField, BitVec.extractLsb'_toNat]

theorem kszField_toNat (cw : BitVec 16) : (kszField cw).toNat = cw.toNat / 32 % 4 := by
  simp [kszField, BitVec.extractLsb'_toNat, Nat.shiftRight_eq_div_pow]

theorem rsvField_toNat (cw : BitVec 16) : (rsvField cw).toNat = cw.toNat / 128 % 2 := by
  simp [rsvField, BitVec.extractLsb'_toNat, Nat.shiftRight_eq_div_pow]

theorem argField_toNat (cw : BitVec 16) : (argField cw).toNat = cw.toNat / 256 := by
  have := cw.isLt
  simp [argField, BitVec.extractLsb'_toNat, Nat.shiftRight_eq_div_pow]
  omega

/-- R67(a): the codes without an opcode. -/
theorem illegalWord_of_ofCode_eq_none (u : Bool) {c : BitVec 5} (h : Opcode.ofCode? c = none) (ksz rsv arg : Nat) :
    IllegalWord u c.toNat ksz rsv arg := by
  left
  revert c
  decide

/-- R67 for the code of an opcode, which is none of (a), with the reserved bit 0: (b) to (e) are what R66 rules out. -/
theorem not_illegalWord_code_iff (u : Bool) (op : Opcode) (ksz : BitVec 2) (arg : Byte) :
    ¬ IllegalWord u op.code.toNat ksz.toNat 0 arg.toNat
      ↔ (op.isUnit = true → u = true) ∧ (op ≠ .loadKey → ksz = 0) ∧ (op.takesArg = false → arg = 0) := by
  have hksz : ksz.toNat = 0 ↔ ksz = 0 := BitVec.toNat_inj (y := 0)
  have harg : arg.toNat = 0 ↔ arg = 0 := BitVec.toNat_inj (y := 0)
  cases op <;>
    simp [IllegalWord, Opcode.code, Opcode.takesArg, Opcode.isUnit, hksz, harg, and_comm, and_left_comm]

/-- R67: a word with the reserved bit 0 is illegal by its code, or by the fields beside its opcode. -/
theorem decodeWord_eq_illegal_iff_of_rsv (p : Config.Params) {cw : BitVec 16} (hrsv : rsvField cw = 0) :
    decodeWord p cw = .illegal
      ↔ IllegalWord p.unitCmds (opField cw).toNat (kszField cw).toNat 0 (argField cw).toNat := by
  cases hop : Opcode.ofCode? (opField cw) with
  | none => exact iff_of_true (by simp [decodeWord, hop]) (illegalWord_of_ofCode_eq_none _ hop _ _ _)
  | some op =>
    have hcode := Opcode.code_of_ofCode _ _ hop
    rw [← not_iff_not, ← packWord_fields cw hrsv, ← hcode]
    simp only [opField_packWord, kszField_packWord, argField_packWord, not_illegalWord_code_iff]
    exact decodeWord_packWord_ne_illegal_iff p op (kszField cw) (argField cw)

theorem decodeWord_eq_illegal_iff (p : Config.Params) (cw : BitVec 16) :
    decodeWord p cw = .illegal
      ↔ IllegalWord p.unitCmds (opField cw).toNat (kszField cw).toNat (rsvField cw).toNat (argField cw).toNat := by
  by_cases hrsv : rsvField cw = 0
  · rw [decodeWord_eq_illegal_iff_of_rsv p hrsv, hrsv]
    rfl
  · have hone : (rsvField cw).toNat = 1 := by
      have := (rsvField cw).isLt
      have : (rsvField cw).toNat ≠ 0 := fun h => hrsv (BitVec.eq_of_toNat_eq h)
      omega
    exact iff_of_true (if_pos hrsv) (.inr (.inl hone))

end Sys2Proof

namespace Sys2Proof.Machine

open Sys2Proof.Claims

/-! The step of a decoded and of a rejected command (R70, R241). -/

theorem execCommand_of_decode {s : State} {c : Command} {i : Instr} (h : decode s.params c = .cmd i) :
    execCommand c s = exec i s := by
  simp only [execCommand, h]

theorem execCommand_of_illegal {s : State} {c : Command} (h : decodeWord s.params c.cw = .illegal) :
    execCommand c s = raise .illegal s := by
  simp only [execCommand, decode, h]

theorem execCommand_of_badKeySize {s : State} {c : Command} (h : decodeWord s.params c.cw = .badKeySize) :
    execCommand c s = raise .keySize s := by
  simp only [execCommand, decode, h]

theorem step_of_decode {s : State} {c : Command} {cs : List Command} {i : Instr} (hs : Issues s c cs)
    (h : decode s.params c = .cmd i) : step s = andThen (exec i s) fun t => .next (deliver t) := by
  rw [step_of_issues hs, execCommand_of_decode h]

/-- R243: a rejected command is delivered its error and nothing else changes. -/
theorem step_of_raise {s : State} {c : Command} {cs : List Command} {e : Status} (hs : Issues s c cs)
    (h : execCommand c s = raise e s) : step s = .next (delivered s cs (errorResponse e)) := by
  rw [step_of_issues hs, h, raise_eq, andThen_next, deliver_offer, takeResponse_eq_delivered hs]
  rfl

/-- Settles O12: the reserved bit (b) and a code without an opcode (a) make a word illegal alone, and with an opcode the
other fields decide, by (c) to (e). A rejected command is delivered its error. -/
theorem illegalWordsAreExactlyThese : Obligations.IllegalWordsAreExactlyThese := by
  refine ⟨fun p cw => ?_, decodeWord_eq_badKeySize_iff, fun s c cs hs => ⟨fun h => ?_, fun h => ?_⟩⟩
  · rw [← opField_toNat, ← kszField_toNat, ← rsvField_toNat, ← argField_toNat]
    exact decodeWord_eq_illegal_iff p cw
  · exact step_of_raise hs (execCommand_of_illegal h)
  · exact step_of_raise hs (execCommand_of_badKeySize h)

/-- Settles O6: the step runs the decoded command; without a command it has nothing to take. -/
theorem stepRunsTheDecodedInstruction : Obligations.StepRunsTheDecodedInstruction := by
  refine ⟨fun s c cs i => step_of_decode, fun t r hr => ?_, fun s hidle hpend => ?_⟩
  · simp only [deliver, hr, State.takeResponse]
  · rw [step_of_no_command (by simp [State.stepCommand, hidle, hpend])]
    simp only [deliver, hidle]

/-! The data bytes that an instruction's answer depends on and leaves zero (R71). -/

/-- R22: both states hold the same in the four registers. -/
structure SameRegisters (s u : State) : Prop where
  key : u.key = s.key
  ksz : u.ksz = s.ksz
  keyValid : u.keyValid = s.keyValid
  w : u.w = s.w

theorem SameRegisters.refl (s : State) : SameRegisters s s := ⟨rfl, rfl, rfl, rfl⟩

/-- R71: in every state with the registers of `s` the command offers the same response, whose bytes from `n` on are zero,
and changes nothing else. -/
def OffersBytes (n : Nat) (s : State) (f : State → Result) : Prop :=
  ∃ r : Response, (∀ (k : Nat) (h : k < 32), n ≤ k → r.rdata[k] = 0)
    ∧ ∀ u, SameRegisters s u → f u = .next (u.offer r)

section
variable {s : State} {n : Nat}

theorem raise_offersBytes (s : State) (n : Nat) (e : Status) : OffersBytes n s (raise e) :=
  ⟨errorResponse e, fun _ h _ => Vector.getElem_replicate h, fun u _ => raise_eq u e⟩

theorem respondBytes_offersBytes (s : State) (v : Vector Byte n) : OffersBytes n s (respondBytes v) :=
  ⟨{ status := .ok, rksz := 0, rdata := pad32 v }, fun k h hk => pad32_getElem_of_le v k hk h,
    fun u _ => respondBytes_eq u v⟩

theorem respondTransform_offersBytes (s : State) (f : StateMatrix → StateMatrix) (blk : Block) :
    OffersBytes 16 s (respondTransform f blk) := respondBytes_offersBytes s (storeState (f (loadState blk)))

/-- Commands that agree on the states with the registers of `s` offer the same. -/
theorem OffersBytes.of_eq {f g : State → Result} (hf : OffersBytes n s f) (h : ∀ u, SameRegisters s u → g u = f u) :
    OffersBytes n s g := by
  obtain ⟨r, hzero, hr⟩ := hf
  exact ⟨r, hzero, fun u hu => (h u hu).trans (hr u hu)⟩

/-- R242: a keyed command needs its answer with a key alone. -/
theorem keyed_offersBytes {k : State → KeySize → Result}
    (hk : s.keyValid = true → OffersBytes n s fun u => k u s.ksz) : OffersBytes n s fun u => keyed u (k u) := by
  cases hv : s.keyValid with
  | false => exact (raise_offersBytes s n .noKey).of_eq fun u hu => keyed_noKey (hu.keyValid.trans hv) (k u)
  | true =>
    refine (hk hv).of_eq fun u hu => ?_
    rw [keyed_valid (hu.keyValid.trans hv), hu.ksz]

/-- R245: an indexed command needs its answer with a key and an index in range alone. -/
theorem indexed_offersBytes {op : Opcode} {a : Byte} {k : State → KeySize → Result}
    (hk : s.keyValid = true → inRange op a s.ksz = true → OffersBytes n s fun u => k u s.ksz) :
    OffersBytes n s fun u => indexed op a u (k u) := by
  refine keyed_offersBytes fun hv => ?_
  cases hr : inRange op a s.ksz with
  | false => exact raise_offersBytes s n .range
  | true => exact hk hv hr

theorem readKey_offersBytes (s : State) : OffersBytes 32 s execReadKey := by
  refine keyed_offersBytes fun hv => ⟨{ status := .ok, rksz := s.ksz.code, rdata := s.key }, fun k h hk => ?_,
    fun u hu => ?_⟩
  · omega
  · simp only [readKeyReg_valid (hu.keyValid.trans hv), hu.key, respond_eq]

/-- ENCRYPT and DECRYPT read the schedule and the block. -/
theorem cipherCommand_offersBytes (s : State) (f : ScheduleStore → KeySize → Block) :
    OffersBytes 16 s fun u => keyed u fun z => readSchedule u fun w => respondBytes (f w z) u := by
  refine keyed_offersBytes fun hv => (respondBytes_offersBytes s (f s.w s.ksz)).of_eq fun u hu => ?_
  rw [readSchedule_valid (hu.keyValid.trans hv), hu.w]

theorem readSchedWord_offersBytes (s : State) (i : Byte) : OffersBytes 4 s (execReadSchedWord i) := by
  refine indexed_offersBytes fun hv hin => ?_
  have hi : i.toNat < s.ksz.schedLen := by
    simp only [inRange, decide_eq_true_eq] at hin
    unfold KeySize.schedLen
    omega
  have h60 : i.toNat < 60 := hi.trans_le s.ksz.schedLen_le
  refine (respondBytes_offersBytes s s.w[i.toNat]).of_eq fun u hu => ?_
  simp only [readScheduleWord_valid (hu.keyValid.trans hv) hi, hu.w]

/-- The round-key commands (R176 to R178) read the round key of their index and the block. -/
theorem roundCommand_offersBytes {op : Opcode} (hop : op = .addRoundKey ∨ op = .encRound ∨ op = .decRound) (s : State)
    (a : Byte) (f : KeySize → RoundKey → StateMatrix → StateMatrix) (blk : Block) :
    OffersBytes 16 s fun u =>
      indexed op a u fun z => readRoundKey z a.toNat u fun k => respondTransform (f z k) blk u := by
  refine indexed_offersBytes fun hv hin => ?_
  have hle := le_nr_of_inRange hop hin
  refine (respondTransform_offersBytes s (f s.ksz (roundKey s.w ⟨a.toNat, hle.trans_lt s.ksz.nr_lt⟩)) blk).of_eq
    fun u hu => ?_
  rw [readRoundKey_valid (hu.keyValid.trans hv) hle, hu.w]

end

/-- R71: every instruction but LOAD_KEY answers from the registers alone and writes the bytes its rule lists. -/
theorem exec_offersBytes (s : State) {i : Instr} (hi : i.opcode ≠ .loadKey) :
    OffersBytes (resultBytes i.opcode) s (exec i) := by
  cases i with
  | loadKey128 | loadKey192 | loadKey256 => exact absurd rfl hi
  | readKey => exact readKey_offersBytes s
  | encrypt blk => exact cipherCommand_offersBytes s fun w z => encryptBlock w z blk
  | decrypt blk => exact cipherCommand_offersBytes s fun w z => decryptBlock w z blk
  | readSchedWord i => exact readSchedWord_offersBytes s i
  | sbox | invSbox | xtime => exact respondBytes_offersBytes s _
  | subBytes blk | invSubBytes blk | shiftRows blk | invShiftRows blk | mixColumns blk | invMixColumns blk =>
    exact respondTransform_offersBytes s _ blk
  | addRoundKey r blk => exact roundCommand_offersBytes (.inl rfl) s r (fun _ k m => addRoundKey m k) blk
  | encRound r blk =>
    exact roundCommand_offersBytes (.inr (.inl rfl)) s r (fun z k m => aesEncryptRound m k (r.toNat == z.nr)) blk
  | decRound r blk =>
    exact roundCommand_offersBytes (.inr (.inr rfl)) s r (fun _ k m => aesDecryptRound m k (r.toNat == 0)) blk

/-- R71: the bytes of `RDATA` beyond those the rule writes. -/
theorem exec_rdata_zero {i : Instr} {s t : State} {r : Response} (h : exec i s = .next t) (hr : t.phase = .respond r)
    (k : Nat) (hk : k < 32) (hle : resultBytes i.opcode ≤ k) : r.rdata[k] = 0 := by
  by_cases hi : i.opcode = .loadKey
  · obtain ⟨z, kb, -, e⟩ := exec_eq_loadKey hi
    rw [e, loadKey_eq] at h
    cases h
    cases hr
    exact Vector.getElem_replicate hk
  · obtain ⟨r', hzero, e⟩ := exec_offersBytes s hi
    obtain rfl : s.offer r' = t := Host.Outcome.next.inj ((e s (.refl s)).symm.trans h)
    cases hr
    exact hzero k hk hle

/-- The state after a transaction does not show which command was the host's next one. -/
theorem andThen_exec_pending (i : Instr) {s : State} {c : Command} {cs : List Command} (hs : Issues s c cs)
    (c' : Command) :
    andThen (exec i { s with pending := c' :: cs }) (fun t => .next (deliver t))
      = andThen (exec i s) fun t => .next (deliver t) := by
  have hs' : Issues { s with pending := c' :: cs } c' cs := ⟨hs.left, rfl⟩
  by_cases hi : i.opcode = .loadKey
  · obtain ⟨z, kb, -, e⟩ := exec_eq_loadKey hi
    have hload : Issues (s.installKey z kb) c cs := hs
    have hload' : Issues (State.installKey { s with pending := c' :: cs } z kb) c' cs := hs'
    rw [e, e, loadKey_eq, loadKey_eq, andThen_next, andThen_next, deliver_offer, deliver_offer,
      takeResponse_eq_delivered hload, takeResponse_eq_delivered hload']
    rfl
  · obtain ⟨r, -, e⟩ := exec_offersBytes s hi
    have hregs : SameRegisters s { s with pending := c' :: cs } := ⟨rfl, rfl, rfl, rfl⟩
    rw [e s (.refl s), e _ hregs, andThen_next, andThen_next, deliver_offer, deliver_offer, takeResponse_eq_delivered hs,
      takeResponse_eq_delivered hs']
    rfl

/-- Settles O14: the other command decodes to the same instruction, whose answer depends on the registers alone. -/
theorem unusedBytesAreIgnoredAndZero : Obligations.UnusedBytesAreIgnoredAndZero := by
  refine ⟨fun s c c' cs i hs hdec hcw hdata => ?_, fun i s t r h hr => exec_rdata_zero h hr⟩
  have hs' : Issues { s with pending := c' :: cs } c' cs := ⟨hs.left, rfl⟩
  rw [step_of_decode hs hdec, step_of_decode hs' (decode_congr hdec hcw hdata), andThen_exec_pending i hs]

/-! The assembler (R73, R74). -/

theorem assembleOp_of_ne_raw {op : AsmOp} (h : op ≠ .rawCommand) (args : List (List Char)) :
    assembleOp op args = (assembleInstr op args).map encode := by
  cases op with
  | rawCommand => exact absurd rfl h
  | _ => rfl

theorem assembleLine_of_parseLine {line : List Char} {op : AsmOp} {args : List (List Char)}
    (h : parseLine line = some (op, args)) : assembleLine line = assembleOp op args := by
  simp only [assembleLine, h, Option.bind_some]

/-- Settles O53: such a line encodes the instruction it names, and decode gives that back. -/
theorem onlyRawLinesCanBeIllegal : Obligations.OnlyRawLinesCanBeIllegal := by
  intro line op args c hparse hasm hop
  rw [assembleLine_of_parseLine hparse, assembleOp_of_ne_raw hop] at hasm
  obtain ⟨i, hi, rfl⟩ := Option.map_eq_some_iff.mp hasm
  have hwf : i.wellFormed { unitCmds := true } = true := (i.wellFormed_iff _).mpr fun _ => rfl
  exact ⟨i, hi, decodeOfEncodeIsTheInstruction _ i hwf⟩

/-- R73: two digits for each byte. -/
theorem parseHexBytes_length {k : List Char} {bs : List Byte} (h : parseHexBytes k = some bs) :
    k.length = 2 * bs.length := by
  induction k using parseHexBytes.induct generalizing bs with
  | case1 =>
    cases h
    rfl
  | case2 => cases h
  | case3 a b rest x y bs' hrest ha hb ih =>
    simp only [parseHexBytes, ha, hb, hrest] at h
    cases h
    simp only [List.length_cons, ih hrest]
    omega
  | case4 a b rest hnone ih =>
    simp only [parseHexBytes, reduceCtorEq] at h

/-- R74: NEW with a key operand is the LOAD_KEY that the key's number of digits chooses. -/
theorem assembleOp_newKey (k : List Char) : assembleOp .newKey [k] = (assembleKeyByLength k).map encode := rfl

theorem assembleOp_loadKey (z : KeySize) (k : List Char) :
    assembleOp (.loadKey z) [k] = (assembleKey z k).map encode := rfl

/-- Settles O54: a key has two digits for each byte, so its number of digits chooses the LOAD_KEY of its size. -/
theorem pseudoInstructionsExpand : Obligations.PseudoInstructionsExpand := by
  refine ⟨fun args => rfl, fun k bs hk => ?_, fun args => rfl⟩
  have hlen := parseHexBytes_length hk
  simp only [assembleOp_newKey, assembleOp_loadKey, assembleKeyByLength, hlen]
  refine ⟨fun h => ?_, fun h => ?_, fun h => ?_, fun h16 h24 h32 => ?_⟩
  · rw [if_pos (by omega)]
  · rw [if_neg (by omega), if_pos (by omega)]
  · rw [if_neg (by omega), if_neg (by omega), if_pos (by omega)]
  · rw [if_neg (by omega), if_neg (by omega), if_neg (by omega), Option.map_none]

end Sys2Proof.Machine
end

section

/-! The field-primitive family (40_field_primitives.md). `xtime`, `gf_mulc` and the multiplication of R100 by a fixed byte
are additive, so they agree everywhere once they agree on the eight powers of `x`; the facts about the contents of the two
tables are evaluated over the byte values. -/

set_option autoImplicit false

namespace Sys2Proof.Machine

open Sys2Proof.Claims

/-! Additive maps of bytes (R100: field addition is XOR). -/

/-- A map of bytes that keeps field addition. -/
def XorAdditive (f : Byte → Byte) : Prop := ∀ a b, f (a ^^^ b) = f a ^^^ f b

theorem XorAdditive.map_zero {f : Byte → Byte} (hf : XorAdditive f) : f 0 = 0 := by
  simpa using hf 0 0

/-- The bits of a byte below `n + 1` are those below `n`, and bit `n`. -/
theorem lowBits_succ (b : Byte) (n : Nat) :
    (b.setWidth (n + 1)).setWidth 8 = (b.setWidth n).setWidth 8 ^^^ if b.getLsbD n then 1#8 <<< n else 0 := by
  apply BitVec.eq_of_getLsbD_eq
  intro i hi
  obtain hlt | rfl | hgt := Nat.lt_trichotomy i n
  · cases b.getLsbD n <;> simp [hi, hlt, Nat.lt_succ_of_lt hlt]
  · cases hb : b.getLsbD i <;> simp [hi, hb, -BitVec.getLsbD_eq_getElem]
  · have hle : ¬ i < n + 1 := by omega
    have h0 : i - n ≠ 0 := by omega
    cases b.getLsbD n <;> simp [hi, hle, hgt.le, h0]

/-- Two additive maps that agree on the powers of `x` are equal. -/
theorem XorAdditive.eq_of_powers {f g : Byte → Byte} (hf : XorAdditive f) (hg : XorAdditive g)
    (h : ∀ i < 8, f (1#8 <<< i) = g (1#8 <<< i)) (b : Byte) : f b = g b := by
  have hlow : ∀ n ≤ 8, f ((b.setWidth n).setWidth 8) = g ((b.setWidth n).setWidth 8) := by
    intro n hn
    induction n with
    | zero =>
      have hzero : (b.setWidth 0).setWidth 8 = 0 := by rw [BitVec.of_length_zero (x := b.setWidth 0)]; rfl
      rw [hzero, hf.map_zero, hg.map_zero]
    | succ n ih =>
      rw [lowBits_succ, hf, hg, ih (by omega)]
      split_ifs
      · rw [h n (by omega)]
      · rw [hf.map_zero, hg.map_zero]
  simpa using hlow 8 le_rfl

/-- A reduction step (R100, R101) is additive: `m` is the multiple of the field polynomial that it adds when the leading
bit is set, and `x` and `y` are the leading bits of `p` and `q`. -/
theorem reductionStep_xor {w : Nat} (p q m : BitVec w) (x y : Bool) :
    (if (x ^^ y) = true then p ^^^ q ^^^ m else p ^^^ q)
      = (if x = true then p ^^^ m else p) ^^^ if y = true then q ^^^ m else q := by
  have hcancel : p ^^^ m ^^^ (q ^^^ m) = p ^^^ q := by
    rw [BitVec.xor_comm q m, BitVec.xor_assoc, ← BitVec.xor_assoc m, BitVec.xor_self, BitVec.zero_xor]
  cases x <;> cases y
  · rfl
  · exact BitVec.xor_assoc p q m
  · show p ^^^ q ^^^ m = p ^^^ m ^^^ q
    ac_rfl
  · exact hcancel.symm

/-! `xtime` and `gf_mulc` (R101 to R103). -/

theorem gfXtime_xorAdditive : XorAdditive gfXtime := by
  intro a b
  simp only [gfXtime, BitVec.setWidth_xor, BitVec.shiftLeft_xor_distrib, BitVec.getLsbD_xor, reductionStep_xor]

theorem gfMulc_xorAdditive (c : MulConst) : XorAdditive (gfMulc · c) := by
  intro a b
  cases c <;> simp only [gfMulc, gfXtime_xorAdditive _ _] <;> ac_rfl

/-- R112 in numbers. -/
theorem gfXtime_eq_ofNat (b : Byte) :
    gfXtime b = BitVec.ofNat 8 (if 128 ≤ b.toNat then (2 * b.toNat - 256) ^^^ 0x1b else 2 * b.toNat) := by
  have hbit : b.getLsbD 7 = decide (128 ≤ b.toNat) := b.msb_eq_decide
  apply BitVec.eq_of_toNat_eq
  simp only [gfXtime, hbit, decide_eq_true_eq]
  split_ifs with h
  · have hcarry : 2 * b.toNat % 256 = (2 * b.toNat - 256) % 256 := by omega
    simp [Nat.shiftLeft_eq, Nat.mul_comm, hcarry]
  · simp [Nat.shiftLeft_eq, Nat.mul_comm]

/-! Multiplication in the field (R100). -/

/-- Folds whose steps add up to the step of a third fold add up to that fold. -/
theorem foldl_xor {w : Nat} {f g h : BitVec w → Nat → BitVec w} (hstep : ∀ p q k, h (p ^^^ q) k = f p k ^^^ g q k)
    (l : List Nat) (p q : BitVec w) : l.foldl h (p ^^^ q) = l.foldl f p ^^^ l.foldl g q := by
  induction l generalizing p q with
  | nil => rfl
  | cons k l ih => rw [List.foldl_cons, List.foldl_cons, List.foldl_cons, hstep, ih]

theorem polyMul_xor (a b c : Byte) : polyMul (a ^^^ b) c = polyMul a c ^^^ polyMul b c := by
  refine foldl_xor (fun p q i => ?_) (List.range 8) 0 0
  split_ifs
  · rw [BitVec.setWidth_xor, BitVec.shiftLeft_xor_distrib]
    ac_rfl
  · rfl

theorem polyReduce_xor (p q : BitVec 15) : polyReduce (p ^^^ q) = polyReduce p ^^^ polyReduce q := by
  unfold polyReduce
  rw [← BitVec.setWidth_xor, foldl_xor fun p q k => ?_]
  rw [BitVec.getLsbD_xor, reductionStep_xor]

theorem gfMul_xorAdditive (c : Byte) : XorAdditive (gfMul · c) := by
  intro a b
  simp only [gfMul, polyMul_xor, polyReduce_xor]

/-- R102: the decompositions of the seven constants are right on the powers of `x`. -/
theorem gfMulc_eq_gfMul_power (c : MulConst) : ∀ i < 8, gfMulc (1#8 <<< i) c = gfMul (1#8 <<< i) c.byte := by
  cases c <;> decide

theorem gfMulc_eq_gfMul (b : Byte) (c : MulConst) : gfMulc b c = gfMul b c.byte :=
  (gfMulc_xorAdditive c).eq_of_powers (gfMul_xorAdditive c.byte) (gfMulc_eq_gfMul_power c) b

/-! The substitution tables (R104 to R107). -/

theorem tableEntry_eq_getD (t : Vector (Vector Byte 16) 16) (b : Byte) :
    tableEntry t b = ((t[b.toNat / 16]?).bind fun row => row[b.toNat % 16]?).getD 0 := by
  have hrow : b.toNat / 16 < 16 := by have := b.isLt; omega
  have hcol : b.toNat % 16 < 16 := by omega
  rw [Vector.getElem?_eq_getElem hrow, Option.bind_some, Vector.getElem?_eq_getElem hcol, Option.getD_some, tableEntry]

/-- R106: the equation that the source states, evaluated for the 256 bytes. -/
theorem invSboxEntry_leftInverse : Function.LeftInverse invSboxEntry sboxEntry := by
  unfold Function.LeftInverse
  decide +kernel

theorem sboxEntry_bijective : Function.Bijective sboxEntry :=
  invSboxEntry_leftInverse.injective.bijective_of_finite

/-- R106: the equation that the spec derives, since the table is a permutation. -/
theorem invSboxEntry_rightInverse : Function.RightInverse invSboxEntry sboxEntry :=
  invSboxEntry_leftInverse.rightInverse_of_surjective sboxEntry_bijective.surjective

theorem rotateRight_getLsbD (x : Byte) {r i : Nat} (hr : r < 8) (hi : i < 8) :
    (x.rotateRight r).getLsbD i = x.getLsbD ((i + r) % 8) := by
  rw [BitVec.getLsbD_rotateRight, Nat.mod_eq_of_lt hr]
  by_cases h : i < 8 - r
  · rw [Nat.mod_eq_of_lt (by omega), Nat.add_comm i r]
    simp [h]
  · rw [show (i + r) % 8 = i - (8 - r) by omega]
    simp [h, hi]

/-- R107, bit by bit. -/
theorem sboxAffine_getLsbD (x : Byte) (i : Nat) (hi : i < 8) :
    (sboxAffine x).getLsbD i
      = (x.getLsbD i ^^ x.getLsbD ((i + 4) % 8) ^^ x.getLsbD ((i + 5) % 8) ^^ x.getLsbD ((i + 6) % 8)
          ^^ x.getLsbD ((i + 7) % 8) ^^ (0x63 : Byte).getLsbD i) := by
  simp only [sboxAffine, BitVec.getLsbD_xor, rotateRight_getLsbD x _ hi, Nat.reduceLT]

/-- The inverse of the affine map of R107. -/
def sboxAffineInverse (y : Byte) : Byte := y.rotateRight 2 ^^^ y.rotateRight 5 ^^^ y.rotateRight 7 ^^^ 0x05

theorem sboxAffine_sboxAffineInverse (y : Byte) : sboxAffine (sboxAffineInverse y) = y := by
  revert y
  decide +kernel

/-- R107: the table is the affine image of the inverse, evaluated for the 255 nonzero bytes. -/
theorem gfMul_sboxAffineInverse (b : Byte) (hb : b ≠ 0) : gfMul b (sboxAffineInverse (sboxEntry b)) = 1 := by
  revert b
  decide +kernel

/-- R107: the two derived facts, evaluated over R104. -/
theorem sboxEntry_ne_self_ne_complement (b : Byte) : sboxEntry b ≠ b ∧ sboxEntry b ≠ b ^^^ 0xff := by
  revert b
  decide +kernel

/-! A command that completes (R71, R110 to R112). -/

/-- R71: an instruction that responds with the bytes of `v` completes with them. -/
theorem answersBytes_of_respondBytes {n : Nat} {i : Instr} {s : State} {v : Vector Byte n}
    (h : exec i s = respondBytes v s) : AnswersBytes i s v :=
  ⟨pad32 v, h.trans (respondBytes_eq s v), pad32_getElem_of_lt v, fun k h32 hk => pad32_getElem_of_le v k hk h32⟩

/-! The obligations of the family. -/

/-- Settles O25: each command responds with one byte, the table entry or `xtime` of its argument. -/
theorem fieldCommandsAnswerOneByte : Obligations.FieldCommandsAnswerOneByte := by
  intro s b
  rw [← tableEntry_eq_getD, ← tableEntry_eq_getD, ← gfXtime_eq_ofNat]
  exact ⟨answersBytes_of_respondBytes rfl, answersBytes_of_respondBytes rfl, answersBytes_of_respondBytes rfl⟩

/-- Settles O26: a left inverse on a finite type is a two-sided one. -/
theorem sboxTablesAreInverse : Obligations.SboxTablesAreInverse :=
  ⟨fun b => ⟨invSboxEntry_leftInverse b, invSboxEntry_rightInverse b⟩, sboxEntry_bijective,
    invSboxEntry_rightInverse.injective, invSboxEntry_leftInverse.surjective⟩

/-- Settles O27: the field inverse of a byte is its table entry with the affine map undone. -/
theorem sboxIsTheAffineImageOfTheInverse : Obligations.SboxIsTheAffineImageOfTheInverse :=
  ⟨by decide,
    fun b hb => ⟨sboxAffineInverse (sboxEntry b), gfMul_sboxAffineInverse b hb, (sboxAffine_sboxAffineInverse _).symm⟩,
    sboxAffine_getLsbD, sboxEntry_ne_self_ne_complement⟩

/-- Settles O28: both sides are additive and agree on the powers of `x`; `xtime` is the product with the constant 2. -/
theorem constantMultiplicationIsFieldMultiplication : Obligations.ConstantMultiplicationIsFieldMultiplication :=
  ⟨gfMulc_eq_gfMul, fun b => gfMulc_eq_gfMul b .c2⟩

/-- Settles O29: `xtime` is additive, and `gf_mulc` is built from it and XOR. -/
theorem fieldPrimitivesAreAdditive : Obligations.FieldPrimitivesAreAdditive :=
  ⟨gfXtime_xorAdditive, fun a b c => gfMulc_xorAdditive c a b, fun _ => rfl⟩

end Sys2Proof.Machine
end

section

/-! The key-schedule family (41_key_schedule.md): RotWord as a rotation (R133), `KeyExpansion` byte by byte (R134), and
READ_SCHED_WORD (R140). -/

set_option autoImplicit false

namespace Sys2Proof

/-- Rotating left by the width of the leading part moves that part last. -/
theorem rotateLeft_append {m n : Nat} (hn : 0 < n) (x : BitVec m) (y : BitVec n) :
    (x ++ y).rotateLeft m = (y ++ x).cast (Nat.add_comm n m) := by
  apply BitVec.eq_of_getLsbD_eq
  intro i hi
  rw [BitVec.getLsbD_rotateLeft_of_le (by omega), BitVec.getLsbD_cast, BitVec.getLsbD_append, BitVec.getLsbD_append,
    BitVec.getLsbD_append]
  by_cases hlow : i < m
  · simp [hlow]
  · have hy : i - m < n := by omega
    simp [hlow, hi, hy]

/-- R42: a word's number is its first byte above the other three. -/
theorem wordNumber_eq_append (w : Word) : wordNumber w = w[0] ++ (w[1] ++ w[2] ++ w[3]) := by
  rw [wordNumber, BitVec.append_assoc (x₁ := w[0] ++ w[1]), BitVec.append_assoc (x₁ := w[0]) (x₂ := w[1]),
    BitVec.append_assoc (x₁ := w[1])]
  simp only [BitVec.cast_eq]

/-- R7: every key fits the 32 key bytes. -/
theorem KeySize.nk_le_eight (z : KeySize) : z.nk ≤ 8 := by cases z <;> decide

end Sys2Proof

namespace Sys2Proof.Machine

open Sys2Proof.Claims

/-! The word functions, byte by byte (R131 to R134). -/

theorem keyWord_getElem (kb : Bytes32) (i k : Nat) (hk : k < 4) (h : 4 * i + k < 32) :
    (keyWord kb i)[k] = kb[4 * i + k] := by
  simp [keyWord, h]

theorem subWord_getElem (w : Word) (k : Nat) (hk : k < 4) : (subWord w)[k] = sboxEntry w[k] := by
  simp [subWord, aesSbox]

theorem rotWord_getElem (w : Word) (k : Nat) (hk : k < 4) : (rotWord w)[k] = w[(k + 1) % 4] := by
  match k, hk with
  | 0, _ | 1, _ | 2, _ | 3, _ => rfl

theorem rconHigh_eq {j : Nat} (h : j < 10) : rconHigh j = rconTable[j][0] := dif_pos h

/-- R135: every round constant that a schedule reads is in the table. -/
theorem rconIndex_lt {z : KeySize} {i : Nat} (h : i < z.schedLen) : i / z.nk - 1 < 10 := by
  cases z <;> simp only [KeySize.schedLen, KeySize.nr, KeySize.nk] at h ⊢ <;> omega

section
variable {z : KeySize} {i : Nat} (prev : Word)

theorem scheduleTemp_getElem_of_mod_eq_zero (h : i % z.nk = 0) (k : Nat) (hk : k < 4) :
    (scheduleTemp z i prev)[k] = sboxEntry prev[(k + 1) % 4] ^^^ if k = 0 then rconHigh (i / z.nk - 1) else 0 := by
  have hbyte := subWord_getElem (rotWord prev)
  simp only [rotWord_getElem] at hbyte
  simp only [scheduleTemp, if_pos h]
  match k, hk with
  | 0, _ | 1, _ | 2, _ | 3, _ => simp [hbyte]

/-- R136: the branch of AES-256 alone. -/
theorem scheduleTemp_eq_subWord (h : i % z.nk ≠ 0) (h8 : z.nk = 8 ∧ i % z.nk = 4) :
    scheduleTemp z i prev = subWord prev := by
  rw [scheduleTemp, if_neg h, if_pos h8]

theorem scheduleTemp_eq_self (h : i % z.nk ≠ 0) (h8 : ¬ (z.nk = 8 ∧ i % z.nk = 4)) : scheduleTemp z i prev = prev := by
  rw [scheduleTemp, if_neg h, if_neg h8]

end

/-! The words of the schedule (R134). -/

theorem nextWord_eq (z : KeySize) {ws : List Word} (hnk : z.nk ≤ ws.length) :
    nextWord z ws = xorWord (ws[ws.length - z.nk]'(by have := z.nk_pos; omega))
      (scheduleTemp z ws.length (ws[ws.length - 1]'(by have := z.nk_pos; omega))) := by
  have hpos := z.nk_pos
  have hold : ws.length - z.nk < ws.length := by omega
  have hprev : ws.length - 1 < ws.length := by omega
  simp [nextWord, hold, hprev]

/-- R134 step 2: each word that an expansion adds meets the recurrence in the expansion's own words, because later words
never change earlier ones. -/
theorem expandWords_recurrence (z : KeySize) {n i : Nat} {ws : List Word} (hnk : z.nk ≤ ws.length) (hi : ws.length ≤ i)
    (hn : i < ws.length + n) :
    ∃ prev old : Word, (expandWords z n ws)[i - 1]? = some prev ∧ (expandWords z n ws)[i - z.nk]? = some old
      ∧ (expandWords z n ws)[i]? = some (xorWord old (scheduleTemp z i prev)) := by
  have hpos := z.nk_pos
  induction n generalizing ws with
  | zero => omega
  | succ n ih =>
    rw [expandWords]
    obtain rfl | hlt := hi.eq_or_lt
    · have hkeep : ∀ j < ws.length + 1,
          (expandWords z n (ws ++ [nextWord z ws]))[j]? = (ws ++ [nextWord z ws])[j]? := fun j hj =>
        expandWords_getElem? z n _ j (by simpa using hj)
      refine ⟨ws[ws.length - 1], ws[ws.length - z.nk], ?_, ?_, ?_⟩
      · rw [hkeep _ (by omega), List.getElem?_append_left (by omega), List.getElem?_eq_getElem]
      · rw [hkeep _ (by omega), List.getElem?_append_left (by omega), List.getElem?_eq_getElem]
      · rw [hkeep _ (by omega), List.getElem?_concat_length, nextWord_eq z hnk]
    · exact ih (by simp; omega) (by simpa using hlt) (by simp; omega)

theorem keyExpansion_getElem?_of_lt (z : KeySize) (kb : Bytes32) {i : Nat} (h : i < z.nk) :
    (keyExpansion z kb)[i]? = some (keyWord kb i) := by
  rw [keyExpansion, expandWords_getElem? _ _ _ _ (by simpa using h)]
  simp [h]

theorem keyExpansion_recurrence (z : KeySize) (kb : Bytes32) {i : Nat} (hnk : z.nk ≤ i) (hi : i < z.schedLen) :
    ∃ prev old : Word, (keyExpansion z kb)[i - 1]? = some prev ∧ (keyExpansion z kb)[i - z.nk]? = some old
      ∧ (keyExpansion z kb)[i]? = some (xorWord old (scheduleTemp z i prev)) :=
  expandWords_recurrence z (by simp) (by simpa using hnk) (by simp; omega)

/-! READ_SCHED_WORD (R140). -/

theorem execReadSchedWord_valid {s : State} (hv : s.keyValid = true) {i : Byte} (hi : i.toNat < s.ksz.schedLen) :
    execReadSchedWord i s = respondBytes (s.w[i.toNat]'(hi.trans_le s.ksz.schedLen_le)) s := by
  have hr : inRange .readSchedWord i s.ksz = true := decide_eq_true (Nat.le_sub_one_of_lt hi)
  rw [execReadSchedWord, indexed_valid hv hr, readScheduleWord_valid hv hi]

theorem State.Inv.scheduleMatches {s : State} (hs : s.Inv) (hv : s.keyValid = true) : s.ScheduleMatches := by
  obtain ⟨hsched, -⟩ := hs
  exact (hsched hv).right

/-! The obligations of the family. -/

/-- Settles O30: the words of the key come first and stay; each later word meets the recurrence, and its bytes are read
off the branch of `scheduleTemp` that its index takes. -/
theorem keyExpansionMeetsItsRecurrence : Obligations.KeyExpansionMeetsItsRecurrence := by
  intro z kb
  refine ⟨keyExpansion_length z kb, fun i hi => ?_, fun i hnk hi => ?_⟩
  · have h8 := z.nk_le_eight
    refine ⟨keyWord kb i, keyExpansion_getElem?_of_lt z kb hi, fun k hk => ?_⟩
    rw [keyWord_getElem kb i k hk (by omega), Vector.getElem?_eq_getElem]
  · obtain ⟨prev, old, hprev, hold, hcur⟩ := keyExpansion_recurrence z kb hnk hi
    refine ⟨prev, old, _, hprev, hold, hcur, fun h0 => ?_, fun h0 h8 h4 k hk => ?_, fun h0 hn k hk => ?_⟩
    · have hj : i / z.nk - 1 < 10 := rconIndex_lt hi
      refine ⟨rconTable[i / z.nk - 1], Vector.getElem?_eq_getElem hj, fun k hk => ?_⟩
      rw [xorWord_getElem, scheduleTemp_getElem_of_mod_eq_zero prev h0, rconHigh_eq hj]
    · rw [xorWord_getElem, scheduleTemp_eq_subWord prev h0 ⟨h8, h4⟩, subWord_getElem]
    · rw [xorWord_getElem, scheduleTemp_eq_self prev h0 hn]

/-- Settles O31: the first byte is the leading part of the word's number. -/
theorem rotWordRotatesLeftByEight : Obligations.RotWordRotatesLeftByEight := by
  intro w
  refine ⟨rfl, ?_⟩
  rw [wordNumber_eq_append w]
  exact (rotateLeft_append (by decide) w[0] (w[1] ++ w[2] ++ w[3])).symm

/-- Settles O32: with a key and an index below the schedule's length the read goes through; the invariant names the word. -/
theorem readSchedWordReturnsTheWord : Obligations.ReadSchedWordReturnsTheWord := by
  intro s i h60 hv hle
  have hi : i.toNat < s.ksz.schedLen := by
    unfold KeySize.schedLen
    omega
  exact ⟨answersBytes_of_respondBytes (execReadSchedWord_valid hv hi), fun hs => hs.scheduleMatches hv _ h60 hi⟩

end Sys2Proof.Machine
end

section

/-! The state-transform family (42_state_transform.md): the round operations entry by entry (R150 to R156), their
inverse laws (R157), and the unit commands of the round (R166 to R178). -/

set_option autoImplicit false

namespace Sys2Proof

/-- R7: every key has at least four words. -/
theorem KeySize.four_le_nk (z : KeySize) : 4 ≤ z.nk := by cases z <;> decide

end Sys2Proof

namespace Sys2Proof.Machine

open Sys2Proof.Claims

/-! Loading and storing (R201, R202). -/

/-- R202, at the byte of an entry. -/
theorem storeState_getElem?_entry (m : StateMatrix) (r c : Fin 4) :
    (storeState m)[r.val + 4 * c.val]? = some (m.get r c) := by
  have hk : r.val + 4 * c.val < 16 := by omega
  rw [Vector.getElem?_eq_getElem hk, storeState_getElem]
  congr 2 <;> apply Fin.ext <;> simp only <;> omega

theorem loadState_storeState (m : StateMatrix) : loadState (storeState m) = m := by
  refine StateMatrix.ext_get fun r c => Option.some_injective _ ?_
  rw [loadState_get, ← Vector.getElem?_eq_getElem, storeState_getElem?_entry]

/-- R201, at the entry of a byte. -/
theorem loadState_get_byte (b : Block) (k : Nat) (hk : k < 16) :
    (loadState b).get ⟨k % 4, Nat.mod_lt k (by decide)⟩ ⟨k / 4, Nat.div_lt_of_lt_mul hk⟩ = b[k] := by
  simp only [loadState_get, Nat.mod_add_div]

/-! The round operations, entry by entry (R150 to R156). -/

section
variable (m : StateMatrix) (r c : Fin 4)

@[simp] theorem subBytes_get : (subBytes m).get r c = sboxEntry (m.get r c) := StateMatrix.get_ofFn _ r c

@[simp] theorem invSubBytes_get : (invSubBytes m).get r c = invSboxEntry (m.get r c) := StateMatrix.get_ofFn _ r c

@[simp] theorem shiftRows_get :
    (shiftRows m).get r c = m.get r ⟨(c.val + r.val) % 4, Nat.mod_lt _ (by decide)⟩ := StateMatrix.get_ofFn _ r c

@[simp] theorem invShiftRows_get :
    (invShiftRows m).get r c = m.get r ⟨(c.val + 4 - r.val) % 4, Nat.mod_lt _ (by decide)⟩ := StateMatrix.get_ofFn _ r c

@[simp] theorem addRoundKey_get (k : RoundKey) : (addRoundKey m k).get r c = m.get r c ^^^ k[c][r] :=
  StateMatrix.get_ofFn _ r c

end

/-- An operation that maps each entry maps each byte of the block. -/
theorem storeState_bytewise {g : StateMatrix → StateMatrix} {f : Byte → Byte}
    (h : ∀ m r c, (g m).get r c = f (m.get r c)) (b : Block) : storeState (g (loadState b)) = b.map f := by
  apply Vector.ext
  intro k hk
  rw [storeState_getElem, h, loadState_get_byte b k hk, Vector.getElem_map]

/-! Multiplication of a column by a matrix (R154, R155). -/

theorem gfMul_one (b : Byte) : gfMul b 1#8 = b := (gfMulc_eq_gfMul b .c1).symm

/-- The product of a column and a matrix, its four terms written out. -/
theorem matrixByte_eq (row : Vector Byte 4) (a : Fin 4 → Byte) (r : Fin 4) :
    matrixByte row a r
      = gfMul (a 0) row[(4 - r.val) % 4] ^^^ gfMul (a 1) row[(5 - r.val) % 4]
          ^^^ gfMul (a 2) row[(6 - r.val) % 4] ^^^ gfMul (a 3) row[(7 - r.val) % 4] := by
  simp [matrixByte, List.finRange_succ]

theorem mixColumn_getElem (a : Word) (r : Fin 4) : (mixColumn a)[r] = matrixByte mixRow (a[·]) r := by
  rw [matrixByte_eq]
  match r with
  | 0 | 1 | 2 | 3 => simp [mixColumn, mixRow, gfMulc_eq_gfMul, MulConst.byte, gfMul_one]

theorem invMixColumn_getElem (a : Word) (r : Fin 4) : (invMixColumn a)[r] = matrixByte invMixRow (a[·]) r := by
  rw [matrixByte_eq]
  match r with
  | 0 | 1 | 2 | 3 => simp [invMixColumn, invMixRow, gfMulc_eq_gfMul, MulConst.byte]

theorem mixColumns_get (m : StateMatrix) (r c : Fin 4) :
    (mixColumns m).get r c = matrixByte mixRow (m.get · c) r := by
  simp only [mixColumns, mapColumns_get, mixColumn_getElem, column_getElem]

theorem invMixColumns_get (m : StateMatrix) (r c : Fin 4) :
    (invMixColumns m).get r c = matrixByte invMixRow (m.get · c) r := by
  simp only [invMixColumns, mapColumns_get, invMixColumn_getElem, column_getElem]

/-! The two matrices are inverse (R155, R157). Both products are additive, so it is enough to compare them on the words
with a single bit. -/

/-- A map of words that keeps field addition, byte by byte. -/
def WordAdditive (f : Word → Word) : Prop := ∀ a b, f (xorWord a b) = xorWord (f a) (f b)

/-- The word with the byte `x` at place `j` and zeros elsewhere. -/
def byteWord (j : Fin 4) (x : Byte) : Word := Vector.ofFn fun k => if k = j then x else 0

theorem byteWord_xor (j : Fin 4) (x y : Byte) : byteWord j (x ^^^ y) = xorWord (byteWord j x) (byteWord j y) := by
  apply Vector.ext
  intro k hk
  rw [xorWord_getElem]
  simp only [byteWord, Vector.getElem_ofFn]
  split_ifs
  · rfl
  · exact BitVec.xor_self.symm

/-- A word is the sum of its bytes, each at its place. -/
theorem word_eq_xorWord_byteWords (a : Word) :
    a = xorWord (xorWord (byteWord 0 a[0]) (byteWord 1 a[1])) (xorWord (byteWord 2 a[2]) (byteWord 3 a[3])) := by
  apply Vector.ext
  intro k hk
  simp only [xorWord_getElem, byteWord, Vector.getElem_ofFn]
  match k, hk with
  | 0, _ | 1, _ | 2, _ | 3, _ => simp

theorem WordAdditive.comp {f g : Word → Word} (hf : WordAdditive f) (hg : WordAdditive g) : WordAdditive (f ∘ g) := by
  intro a b
  rw [Function.comp_apply, hg, hf, Function.comp_apply, Function.comp_apply]

/-- Each byte of the image is additive in each byte of the word. -/
theorem WordAdditive.byte_xorAdditive {f : Word → Word} (hf : WordAdditive f) (j : Fin 4) (k : Nat) (hk : k < 4) :
    XorAdditive fun x => (f (byteWord j x))[k] := by
  intro x y
  simp only [byteWord_xor, hf _ _, xorWord_getElem]

/-- Two additive maps of words that agree on the words with a single bit are equal. -/
theorem WordAdditive.eq_of_bits {f g : Word → Word} (hf : WordAdditive f) (hg : WordAdditive g)
    (h : ∀ j, ∀ i < 8, f (byteWord j (1#8 <<< i)) = g (byteWord j (1#8 <<< i))) (a : Word) : f a = g a := by
  have hbyte : ∀ j x, f (byteWord j x) = g (byteWord j x) := by
    intro j x
    apply Vector.ext
    intro k hk
    exact (hf.byte_xorAdditive j k hk).eq_of_powers (hg.byte_xorAdditive j k hk) (fun i hi => by rw [h j i hi]) x
  rw [word_eq_xorWord_byteWords a, hf, hf, hf, hg, hg, hg, hbyte, hbyte, hbyte, hbyte]

theorem matrixByte_xorWord (row : Vector Byte 4) (a b : Word) (r : Fin 4) :
    matrixByte row ((xorWord a b)[·]) r = matrixByte row (a[·]) r ^^^ matrixByte row (b[·]) r := by
  simp only [matrixByte_eq, Fin.getElem_fin, xorWord_getElem, gfMul_xorAdditive _ _ _]
  ac_rfl

/-- The product of a word with a matrix of field elements is additive. -/
theorem wordAdditive_of_matrixByte {f : Word → Word} (row : Vector Byte 4)
    (h : ∀ (a : Word) (r : Fin 4), (f a)[r] = matrixByte row (a[·]) r) : WordAdditive f := by
  intro a b
  apply Vector.ext
  intro k hk
  rw [xorWord_getElem]
  calc (f (xorWord a b))[k]
      = matrixByte row ((xorWord a b)[·]) ⟨k, hk⟩ := h _ ⟨k, hk⟩
    _ = matrixByte row (a[·]) ⟨k, hk⟩ ^^^ matrixByte row (b[·]) ⟨k, hk⟩ := matrixByte_xorWord row a b ⟨k, hk⟩
    _ = (f a)[k] ^^^ (f b)[k] := congrArg₂ (· ^^^ ·) (h a ⟨k, hk⟩).symm (h b ⟨k, hk⟩).symm

theorem mixColumn_wordAdditive : WordAdditive mixColumn := wordAdditive_of_matrixByte mixRow mixColumn_getElem

theorem invMixColumn_wordAdditive : WordAdditive invMixColumn := wordAdditive_of_matrixByte invMixRow invMixColumn_getElem

theorem invMixColumn_mixColumn (a : Word) : invMixColumn (mixColumn a) = a :=
  (invMixColumn_wordAdditive.comp mixColumn_wordAdditive).eq_of_bits (g := id) (fun _ _ => rfl) (by decide) a

theorem mixColumn_invMixColumn (a : Word) : mixColumn (invMixColumn a) = a :=
  (mixColumn_wordAdditive.comp invMixColumn_wordAdditive).eq_of_bits (g := id) (fun _ _ => rfl) (by decide) a

/-! The inverse laws of the state operations (R157). -/

theorem column_mapColumns (f : Word → Word) (m : StateMatrix) (c : Fin 4) :
    (m.mapColumns f).column c = f (m.column c) := by
  apply Vector.ext
  intro r hr
  have hentry : ((m.mapColumns f).column c)[(⟨r, hr⟩ : Fin 4)] = (f (m.column c))[(⟨r, hr⟩ : Fin 4)] := by
    rw [column_getElem, mapColumns_get]
  exact hentry

/-- Column maps that undo each other undo each other on the matrix. -/
theorem mapColumns_leftInverse {f g : Word → Word} (h : Function.LeftInverse g f) :
    Function.LeftInverse (StateMatrix.mapColumns g) (StateMatrix.mapColumns f) := by
  intro m
  refine StateMatrix.ext_get fun r c => ?_
  rw [mapColumns_get, column_mapColumns, h, column_getElem]

theorem invMixColumns_mixColumns (m : StateMatrix) : invMixColumns (mixColumns m) = m :=
  mapColumns_leftInverse invMixColumn_mixColumn m

theorem mixColumns_invMixColumns (m : StateMatrix) : mixColumns (invMixColumns m) = m :=
  mapColumns_leftInverse mixColumn_invMixColumn m

theorem invSubBytes_subBytes (m : StateMatrix) : invSubBytes (subBytes m) = m := by
  refine StateMatrix.ext_get fun r c => ?_
  rw [invSubBytes_get, subBytes_get, invSboxEntry_leftInverse]

theorem subBytes_invSubBytes (m : StateMatrix) : subBytes (invSubBytes m) = m := by
  refine StateMatrix.ext_get fun r c => ?_
  rw [subBytes_get, invSubBytes_get, invSboxEntry_rightInverse]

theorem invShiftRows_shiftRows (m : StateMatrix) : invShiftRows (shiftRows m) = m := by
  refine StateMatrix.ext_get fun r c => ?_
  rw [invShiftRows_get, shiftRows_get]
  congr 1
  apply Fin.ext
  dsimp only
  omega

theorem shiftRows_invShiftRows (m : StateMatrix) : shiftRows (invShiftRows m) = m := by
  refine StateMatrix.ext_get fun r c => ?_
  rw [shiftRows_get, invShiftRows_get]
  congr 1
  apply Fin.ext
  dsimp only
  omega

theorem addRoundKey_addRoundKey (m : StateMatrix) (k : RoundKey) : addRoundKey (addRoundKey m k) k = m := by
  refine StateMatrix.ext_get fun r c => ?_
  rw [addRoundKey_get, addRoundKey_get, BitVec.xor_assoc, BitVec.xor_self, BitVec.xor_zero]

theorem shiftRows_subBytes (m : StateMatrix) : shiftRows (subBytes m) = subBytes (shiftRows m) := by
  refine StateMatrix.ext_get fun r c => ?_
  rw [shiftRows_get, subBytes_get, subBytes_get, shiftRows_get]

theorem invShiftRows_invSubBytes (m : StateMatrix) : invShiftRows (invSubBytes m) = invSubBytes (invShiftRows m) := by
  refine StateMatrix.ext_get fun r c => ?_
  rw [invShiftRows_get, invSubBytes_get, invSubBytes_get, invShiftRows_get]

/-! The round units (R160, R161). -/

section
variable (m : StateMatrix) (k : RoundKey)

theorem aesEncryptRound_final : aesEncryptRound m k true = addRoundKey (shiftRows (subBytes m)) k := rfl

theorem aesDecryptRound_final : aesDecryptRound m k true = addRoundKey (invSubBytes (invShiftRows m)) k := rfl

theorem aesDecryptRound_middle :
    aesDecryptRound m k false = invMixColumns (addRoundKey (invSubBytes (invShiftRows m)) k) := rfl

end

/-! The commands that complete (R170 to R178). -/

/-- R170 to R175: a command that transforms a stored matrix completes with the transformed one. -/
theorem answersBytes_storeState {i : Instr} {s : State} {f : StateMatrix → StateMatrix} {m : StateMatrix}
    (h : exec i s = respondTransform f (storeState m) s) : AnswersBytes i s (storeState (f m)) := by
  rw [← loadState_storeState m]
  exact answersBytes_of_respondBytes h

section
variable {s : State} {r : Byte} (hv : s.keyValid = true) (hr : r.toNat ≤ s.ksz.nr)
include hv

/-- R176 to R178: with a key and its index in range a round-key command transforms the block with the round key of its
index. -/
theorem roundCommand_valid {op : Opcode} (hin : inRange op r s.ksz = true)
    (f : KeySize → RoundKey → StateMatrix → StateMatrix) (blk : Block) :
    (indexed op r s fun z => readRoundKey z r.toNat s fun k => respondTransform (f z k) blk s)
      = respondTransform (f s.ksz (roundKey s.w ⟨r.toNat, hr.trans_lt s.ksz.nr_lt⟩)) blk s := by
  rw [indexed_valid hv hin, readRoundKey_valid hv hr]

theorem execAddRoundKey_valid (blk : Block) :
    execAddRoundKey r blk s
      = respondTransform (addRoundKey · (roundKey s.w ⟨r.toNat, hr.trans_lt s.ksz.nr_lt⟩)) blk s :=
  roundCommand_valid (op := .addRoundKey) hv hr (decide_eq_true hr) (fun _ k m => addRoundKey m k) blk

theorem execEncRound_valid (h1 : 1 ≤ r.toNat) (blk : Block) :
    execEncRound r blk s
      = respondTransform
          (aesEncryptRound · (roundKey s.w ⟨r.toNat, hr.trans_lt s.ksz.nr_lt⟩) (r.toNat == s.ksz.nr)) blk s :=
  roundCommand_valid (op := .encRound) hv hr (decide_eq_true ⟨h1, hr⟩)
    (fun z k m => aesEncryptRound m k (r.toNat == z.nr)) blk

theorem execDecRound_valid (hlt : r.toNat < s.ksz.nr) (blk : Block) :
    execDecRound r blk s
      = respondTransform (aesDecryptRound · (roundKey s.w ⟨r.toNat, hlt.trans s.ksz.nr_lt⟩) (r.toNat == 0)) blk s :=
  roundCommand_valid (op := .decRound) hv hlt.le (decide_eq_true (Nat.le_sub_one_of_lt hlt))
    (fun _ k m => aesDecryptRound m k (r.toNat == 0)) blk

end

/-! The first words of the schedule (R137). -/

/-- R137: under the invariant the first words of `W` are the words of the key. -/
theorem State.Inv.w_getElem?_of_lt_nk {s : State} (hs : s.Inv) (hv : s.keyValid = true) {i : Nat} (hi : i < s.ksz.nk) :
    s.w[i]? = some (keyWord s.key i) := by
  have h60 : i < 60 := by have := s.ksz.nk_le_eight; omega
  rw [Vector.getElem?_eq_getElem h60, ← hs.scheduleMatches hv i h60 (hi.trans_le s.ksz.nk_le_schedLen),
    keyExpansion_getElem?_of_lt _ _ hi]

/-! The obligations of the family. -/

/-- Settles O33: SubBytes and InvSubBytes map each entry, so they map each byte. -/
theorem subBytesCommandsSubstituteEachByte : Obligations.SubBytesCommandsSubstituteEachByte := by
  intro s b
  rw [← storeState_bytewise subBytes_get b, ← storeState_bytewise invSubBytes_get b]
  exact ⟨answersBytes_of_respondBytes rfl, answersBytes_of_respondBytes rfl⟩

/-- Settles O34: the entry `(r, c)` is byte `r + 4c`. -/
theorem shiftRowsCommandsMoveBytes : Obligations.ShiftRowsCommandsMoveBytes := by
  intro s b
  refine ⟨storeState (shiftRows (loadState b)), storeState (invShiftRows (loadState b)),
    answersBytes_of_respondBytes rfl, answersBytes_of_respondBytes rfl, fun r c => ⟨?_, ?_⟩⟩
  · rw [storeState_getElem?_entry, shiftRows_get, loadState_get, Vector.getElem?_eq_getElem]
  · rw [storeState_getElem?_entry, invShiftRows_get, loadState_get, Vector.getElem?_eq_getElem]

/-- Settles O35: `gf_mulc` is the field product with its constant, and column `c` is bytes `4c` to `4c + 3`. -/
theorem mixColumnsCommandsMultiplyByTheMatrix : Obligations.MixColumnsCommandsMultiplyByTheMatrix := by
  intro s b
  refine ⟨storeState (mixColumns (loadState b)), storeState (invMixColumns (loadState b)),
    answersBytes_of_respondBytes rfl, answersBytes_of_respondBytes rfl, fun r c => ⟨?_, ?_⟩⟩
  · simp only [storeState_getElem?_entry, mixColumns_get, loadState_get]
  · simp only [storeState_getElem?_entry, invMixColumns_get, loadState_get]

/-- Settles O36: each law holds entry by entry, or column by column. -/
theorem stateOperationsHaveInverses : Obligations.StateOperationsHaveInverses := fun m k =>
  ⟨invSubBytes_subBytes m, subBytes_invSubBytes m, invShiftRows_shiftRows m, shiftRows_invShiftRows m,
    invMixColumns_mixColumns m, mixColumns_invMixColumns m, addRoundKey_addRoundKey m k, shiftRows_subBytes m,
    invShiftRows_invSubBytes m⟩

/-- Settles O38: with a key and a round of its size the command reads the round key, whose word `c` is `W[4r + c]`. -/
theorem addRoundKeyCommandXorsTheRoundKey : Obligations.AddRoundKeyCommandXorsTheRoundKey := by
  intro s r b hv hr
  refine ⟨_, answersBytes_of_respondBytes (execAddRoundKey_valid hv hr b), fun k hk => ?_⟩
  have h60 : 4 * r.toNat + k / 4 < 60 := by have := s.ksz.nr_lt; omega
  refine ⟨s.w[4 * r.toNat + k / 4], Vector.getElem?_eq_getElem h60, ?_⟩
  rw [storeState_getElem, addRoundKey_get, loadState_get_byte b k hk]
  simp only [Fin.getElem_fin, roundKey_getElem]

/-- Settles O39: by the invariant the first four words of `W` are the first words of the key. -/
theorem addRoundKeyZeroXorsTheKey : Obligations.AddRoundKeyZeroXorsTheKey := by
  intro s b hs hv
  obtain ⟨v, hans, hbytes⟩ := addRoundKeyCommandXorsTheRoundKey s 0 b hv (Nat.zero_le _)
  refine ⟨v, hans, fun k hk => ?_⟩
  obtain ⟨w, hw, hbyte⟩ := hbytes k hk
  have hnk : k / 4 < s.ksz.nk := by have := s.ksz.four_le_nk; omega
  have hindex : 4 * (0 : Byte).toNat + k / 4 = k / 4 := Nat.zero_add _
  rw [hindex, hs.w_getElem?_of_lt_nk hv hnk, Option.some_inj] at hw
  rw [hbyte, ← hw, keyWord_getElem _ _ _ (Nat.mod_lt k (by decide)) (by omega)]
  simp only [Nat.div_add_mod]

/-- Settles O40: the blocks between the unit commands store the matrices between the operations of the round. -/
theorem encRoundIsItsUnitCommands : Obligations.EncRoundIsItsUnitCommands := by
  intro s r b hv h1 hr
  refine ⟨storeState (subBytes (loadState b)), storeState (shiftRows (subBytes (loadState b))),
    storeState (if r.toNat == s.ksz.nr then shiftRows (subBytes (loadState b))
      else mixColumns (shiftRows (subBytes (loadState b)))),
    _, answersBytes_of_respondBytes rfl, answersBytes_storeState rfl, fun hfinal => ?_, fun hmiddle => ?_,
    answersBytes_storeState (execAddRoundKey_valid hv hr _),
    answersBytes_of_respondBytes (execEncRound_valid hv hr h1 b)⟩
  · rw [if_pos (beq_iff_eq.mpr hfinal)]
  · rw [if_neg (mt beq_iff_eq.mp hmiddle)]
    exact answersBytes_storeState rfl

/-- Settles O41: as for the encryption round, with InvMixColumns last. -/
theorem decRoundIsItsUnitCommands : Obligations.DecRoundIsItsUnitCommands := by
  intro s r b hv hlt
  refine ⟨storeState (invShiftRows (loadState b)), storeState (invSubBytes (invShiftRows (loadState b))), _, _,
    answersBytes_of_respondBytes rfl, answersBytes_storeState rfl,
    answersBytes_storeState (execAddRoundKey_valid hv hlt.le _), fun hfinal => ?_, fun hmiddle => ?_,
    answersBytes_of_respondBytes (execDecRound_valid hv hlt b)⟩
  · simp only [beq_iff_eq.mpr hfinal, aesDecryptRound_final]
  · simp only [beq_eq_false_iff_ne.mpr hmiddle, aesDecryptRound_middle]
    exact answersBytes_storeState rfl

/-- Settles O42: between SubBytes and InvSubBytes the key byte is added once. For the zero state and key bytes 1 each
entry is `INVSBOX[SBOX[0] ^ 1] ^ 1 = INVSBOX[0x62] ^ 1 = 0xaa`, not 0. -/
theorem decRoundDoesNotUndoEncRound : Obligations.DecRoundDoesNotUndoEncRound := by
  refine ⟨fun m k => ?_, StateMatrix.ofFn fun _ _ => 0, Vector.replicate 4 (Vector.replicate 4 1), by decide⟩
  rw [aesDecryptRound_final, aesEncryptRound_final]

end Sys2Proof.Machine
end

section

/-! The cipher-block family (43_cipher_block.md): loading and storing (R203), READ_KEY (R207), the inverse of `Cipher`
(R214) and the chains of unit commands (R215). -/

set_option autoImplicit false

namespace Sys2Proof.Machine

open Sys2Proof.Claims

/-! Loading and storing (R203). -/

theorem storeState_loadState (b : Block) : storeState (loadState b) = b := by
  apply Vector.ext
  intro k hk
  rw [storeState_getElem, loadState_get_byte b k hk]

/-- Settles O37: entry `(k mod 4, k / 4)` is byte `k`. -/
theorem loadAndStoreAreInverse : Obligations.LoadAndStoreAreInverse := ⟨storeState_loadState, loadState_storeState⟩

/-! READ_KEY (R207). -/

/-- R7: the model's key-size code is the written-out one. -/
theorem code_eq_sizeCode (z : KeySize) : z.code = sizeCode z := by cases z <;> rfl

theorem exec_readKey {s : State} (hv : s.keyValid = true) :
    exec .readKey s
      = .next { s with phase := .respond { status := .ok, rksz := sizeCode s.ksz, rdata := s.key } } := by
  change execReadKey s = _
  rw [execReadKey, keyed_valid hv, readKeyReg_valid hv, respond_eq, code_eq_sizeCode]
  rfl

/-- R205, R207: after a key load READ_KEY returns its size and its 32 bytes. -/
theorem exec_readKey_of_loadKey {s t : State} {z : KeySize} {kb : Bytes32} (h : loadKey z kb s = .next t) :
    exec .readKey t = .next { t with phase := .respond { status := .ok, rksz := sizeCode z, rdata := kb } } := by
  rw [loadKey_eq] at h
  cases h
  exact exec_readKey rfl

/-- R207: of a key of `n` bytes, those and zeros above. -/
theorem exec_readKey_of_loadKey_pad32 {s t : State} {z : KeySize} {n : Nat} (hn : n ≤ 32) {key : Vector Byte n}
    (h : loadKey z (pad32 key) s = .next t) :
    ∃ d : Bytes32,
      exec .readKey t = .next { t with phase := .respond { status := .ok, rksz := sizeCode z, rdata := d } }
        ∧ (∀ (j : Nat) (h : j < n), d[j]'(h.trans_le hn) = key[j]) ∧ ∀ (j : Nat) (h : j < 32), n ≤ j → d[j] = 0 :=
  ⟨pad32 key, exec_readKey_of_loadKey h, fun j hj => pad32_getElem_of_lt key j hj _,
    fun j hj hle => pad32_getElem_of_le key j hle hj⟩

/-- Settles O22: READ_KEY reads `KSZ` and `KEY`, which a LOAD_KEY writes with its bytes and zeros above. -/
theorem readKeyReturnsTheActiveKey : Obligations.ReadKeyReturnsTheActiveKey :=
  ⟨fun _ => exec_readKey, fun _ _ _ => exec_readKey_of_loadKey_pad32 (z := .aes128) (by decide),
    fun _ _ _ => exec_readKey_of_loadKey_pad32 (z := .aes192) (by decide),
    fun _ _ _ => exec_readKey_of_loadKey (z := .aes256)⟩

/-! ENCRYPT and DECRYPT with a key (R210, R212). -/

section
variable {s : State} (hv : s.keyValid = true) (b : Block)
include hv

theorem exec_encrypt : exec (.encrypt b) s = respondBytes (encryptBlock s.w s.ksz b) s := by
  change execEncrypt b s = _
  rw [execEncrypt, keyed_valid hv, readSchedule_valid hv]

theorem exec_decrypt : exec (.decrypt b) s = respondBytes (decryptBlock s.w s.ksz b) s := by
  change execDecrypt b s = _
  rw [execDecrypt, keyed_valid hv, readSchedule_valid hv]

end

/-! The inverse of `Cipher` (R214). The rounds of the two directions group the operations differently: a middle
decryption round undoes AddRoundKey and MixColumns of an encryption round together with ShiftRows and SubBytes of the
next one, so it undoes an encryption round behind SubBytes and ShiftRows. -/

section
variable (m : StateMatrix) (k : RoundKey)

theorem aesEncryptRound_middle :
    aesEncryptRound m k false = addRoundKey (mixColumns (shiftRows (subBytes m))) k := rfl

theorem aesDecryptRound_undoes_aesEncryptRound :
    aesDecryptRound (shiftRows (subBytes (aesEncryptRound m k false))) k false = shiftRows (subBytes m) := by
  rw [aesDecryptRound_middle, invShiftRows_shiftRows, invSubBytes_subBytes, aesEncryptRound_middle,
    addRoundKey_addRoundKey, invMixColumns_mixColumns]

theorem aesEncryptRound_undoes_aesDecryptRound :
    aesEncryptRound (invSubBytes (invShiftRows (aesDecryptRound m k false))) k false = invSubBytes (invShiftRows m) := by
  rw [aesEncryptRound_middle, subBytes_invSubBytes, shiftRows_invShiftRows, aesDecryptRound_middle,
    mixColumns_invMixColumns, addRoundKey_addRoundKey]

end

/-- If each step `g r` undoes the step `f r` under `p`, the steps `g` in falling order undo the steps `f` in rising order
under `p`. -/
theorem foldl_reverse_undoes {α β : Type} {f g : α → β → α} (p : α → α) (h : ∀ a r, g (p (f a r)) r = p a)
    (rs : List β) (a : α) : rs.reverse.foldl g (p (rs.foldl f a)) = p a := by
  induction rs generalizing a with
  | nil => rfl
  | cons r rs ih =>
    rw [List.reverse_cons, List.foldl_append, List.foldl_cons (l := rs), ih, List.foldl_cons, List.foldl_nil, h]

section
variable (w : ScheduleStore) (z : KeySize)

theorem invCipher_cipher (m : StateMatrix) : invCipher w z (cipher w z m) = m := by
  have hmiddle := foldl_reverse_undoes (g := fun m r => aesDecryptRound m (roundKey w r) false)
    (fun m => shiftRows (subBytes m)) (fun m r => aesDecryptRound_undoes_aesEncryptRound m (roundKey w r))
    (middleRounds z) (addRoundKey m (roundKey w 0))
  simp only [invCipher, cipher, aesEncryptRound_final, aesDecryptRound_final, addRoundKey_addRoundKey, hmiddle,
    invShiftRows_shiftRows, invSubBytes_subBytes]

theorem cipher_invCipher (m : StateMatrix) : cipher w z (invCipher w z m) = m := by
  have hmiddle := foldl_reverse_undoes (g := fun m r => aesEncryptRound m (roundKey w r) false)
    (fun m => invSubBytes (invShiftRows m)) (fun m r => aesEncryptRound_undoes_aesDecryptRound m (roundKey w r))
    (middleRounds z).reverse (addRoundKey m (roundKey w (lastRound z)))
  rw [List.reverse_reverse] at hmiddle
  simp only [invCipher, cipher, aesEncryptRound_final, aesDecryptRound_final, addRoundKey_addRoundKey, hmiddle,
    subBytes_invSubBytes, shiftRows_invShiftRows]

theorem decryptBlock_encryptBlock (b : Block) : decryptBlock w z (encryptBlock w z b) = b := by
  rw [decryptBlock, encryptBlock, loadState_storeState, invCipher_cipher, storeState_loadState]

theorem encryptBlock_decryptBlock (b : Block) : encryptBlock w z (decryptBlock w z b) = b := by
  rw [decryptBlock, encryptBlock, loadState_storeState, cipher_invCipher, storeState_loadState]

end

/-- Settles O23: the middle rounds undo each other in opposite order, and the first and last steps around them too. -/
theorem decryptUndoesEncrypt : Obligations.DecryptUndoesEncrypt := by
  refine ⟨fun w z m => ⟨invCipher_cipher w z m, cipher_invCipher w z m⟩,
    fun w z b => ⟨decryptBlock_encryptBlock w z b, encryptBlock_decryptBlock w z b⟩, fun s b hv => ⟨?_, ?_⟩⟩
  · refine ⟨_, answersBytes_of_respondBytes (exec_encrypt hv b), answersBytes_of_respondBytes ?_⟩
    rw [exec_decrypt hv, decryptBlock_encryptBlock]
  · refine ⟨_, answersBytes_of_respondBytes (exec_decrypt hv b), answersBytes_of_respondBytes ?_⟩
    rw [exec_encrypt hv, encryptBlock_decryptBlock]

/-! The chains of unit commands (R215). Each cipher is a fold of its round over a list of round numbers, and the chain
passes through the folds over the beginnings of that list. -/

/-- R208, R209: the rounds of `Cipher` after the initial AddRoundKey. -/
def encryptRounds (z : KeySize) : List (Fin 15) := middleRounds z ++ [lastRound z]

/-- R211: the rounds of `InvCipher` after the initial AddRoundKey. -/
def decryptRounds (z : KeySize) : List (Fin 15) := (middleRounds z).reverse ++ [0]

/-- R177: the round that ENC_ROUND `r` computes, final exactly when `r = Nr`. -/
def encryptRoundStep (w : ScheduleStore) (z : KeySize) (m : StateMatrix) (r : Fin 15) : StateMatrix :=
  aesEncryptRound m (roundKey w r) (r.val == z.nr)

/-- R178: the round that DEC_ROUND `r` computes, final exactly when `r = 0`. -/
def decryptRoundStep (w : ScheduleStore) (m : StateMatrix) (r : Fin 15) : StateMatrix :=
  aesDecryptRound m (roundKey w r) (r.val == 0)

/-- R208: the state after the initial AddRoundKey and `n` rounds of `Cipher`. -/
def cipherAfter (w : ScheduleStore) (z : KeySize) (m : StateMatrix) (n : Nat) : StateMatrix :=
  ((encryptRounds z).take n).foldl (encryptRoundStep w z) (addRoundKey m (roundKey w 0))

/-- R211: the state after the initial AddRoundKey and `n` rounds of `InvCipher`. -/
def invCipherAfter (w : ScheduleStore) (z : KeySize) (m : StateMatrix) (n : Nat) : StateMatrix :=
  ((decryptRounds z).take n).foldl (decryptRoundStep w) (addRoundKey m (roundKey w (lastRound z)))

theorem mem_middleRounds {z : KeySize} {r : Fin 15} : r ∈ middleRounds z ↔ 1 ≤ r.val ∧ r.val < z.nr := by
  simp [middleRounds]

section
variable {z : KeySize}

theorem encryptRounds_length (z : KeySize) : (encryptRounds z).length = z.nr := by cases z <;> decide

theorem decryptRounds_length (z : KeySize) : (decryptRounds z).length = z.nr := by cases z <;> decide

/-- R209: round `n + 1` follows `n` rounds of encryption. -/
theorem encryptRounds_getElem? {n : Nat} (h : n < z.nr) :
    (encryptRounds z)[n]? = some ⟨n + 1, Nat.lt_of_le_of_lt h z.nr_lt⟩ := by
  revert n
  cases z <;> decide

/-- R211: decryption counts down from round `Nr - 1`. -/
theorem decryptRounds_getElem? {r : Nat} (h : r < z.nr) :
    (decryptRounds z)[z.nr - (r + 1)]? = some ⟨r, h.trans z.nr_lt⟩ := by
  revert r
  cases z <;> decide

theorem foldl_take_succ {α β : Type} {f : α → β → α} {a : α} {rs : List β} {n : Nat} {r : β} (h : rs[n]? = some r) :
    (rs.take (n + 1)).foldl f a = f ((rs.take n).foldl f a) r := by
  rw [List.take_add_one, h, Option.toList_some, List.foldl_append, List.foldl_cons, List.foldl_nil]

variable (w : ScheduleStore) (m : StateMatrix)

theorem cipherAfter_succ {n : Nat} (h : n < z.nr) :
    cipherAfter w z m (n + 1)
      = encryptRoundStep w z (cipherAfter w z m n) ⟨n + 1, Nat.lt_of_le_of_lt h z.nr_lt⟩ :=
  foldl_take_succ (encryptRounds_getElem? h)

/-- The state that DEC_ROUND `r` makes of the state that DEC_ROUND `r + 1` leaves. -/
theorem invCipherAfter_sub {r : Nat} (h : r < z.nr) :
    invCipherAfter w z m (z.nr - r)
      = decryptRoundStep w (invCipherAfter w z m (z.nr - (r + 1))) ⟨r, h.trans z.nr_lt⟩ := by
  have hn : z.nr - r = z.nr - (r + 1) + 1 := by omega
  rw [hn]
  exact foldl_take_succ (decryptRounds_getElem? h)

/-- R208: all `Nr` rounds make `Cipher`: the last alone is final. -/
theorem cipherAfter_nr : cipherAfter w z m z.nr = cipher w z m := by
  rw [cipherAfter, List.take_of_length_le (encryptRounds_length z).le, encryptRounds, List.foldl_append,
    List.foldl_cons, List.foldl_nil]
  simp only [cipher, encryptRoundStep, lastRound, BEq.rfl]
  congr 1
  apply List.foldl_ext
  intro m r hr
  rw [encryptRoundStep, beq_false_of_ne (mem_middleRounds.mp hr).2.ne]

/-- R211: all `Nr` rounds make `InvCipher`: round 0 alone is final. -/
theorem invCipherAfter_nr : invCipherAfter w z m z.nr = invCipher w z m := by
  rw [invCipherAfter, List.take_of_length_le (decryptRounds_length z).le, decryptRounds, List.foldl_append,
    List.foldl_cons, List.foldl_nil]
  simp only [invCipher, decryptRoundStep, Fin.val_zero, BEq.rfl]
  congr 1
  apply List.foldl_ext
  intro m r hr
  rw [decryptRoundStep, beq_false_of_ne (Nat.ne_of_gt (mem_middleRounds.mp (List.mem_reverse.mp hr)).1)]

end

/-! The unit commands of one round, on a stored state (R215). -/

section
variable {s : State} (hv : s.keyValid = true) {a : Byte} {r : Fin 15} (ha : a.toNat = r.val)
include hv ha

theorem addRoundKey_answers (hr : r.val ≤ s.ksz.nr) (b : Block) :
    AnswersBytes (.addRoundKey a b) s (storeState (addRoundKey (loadState b) (roundKey s.w r))) := by
  obtain ⟨r, _⟩ := r
  obtain rfl : a.toNat = r := ha
  exact answersBytes_of_respondBytes (execAddRoundKey_valid hv hr b)

theorem encRound_answers (h1 : 1 ≤ r.val) (hr : r.val ≤ s.ksz.nr) (m : StateMatrix) :
    AnswersBytes (.encRound a (storeState m)) s (storeState (encryptRoundStep s.w s.ksz m r)) := by
  obtain ⟨r, _⟩ := r
  obtain rfl : a.toNat = r := ha
  exact answersBytes_storeState (f := (encryptRoundStep s.w s.ksz · _)) (execEncRound_valid hv hr h1 _)

theorem decRound_answers (hr : r.val < s.ksz.nr) (m : StateMatrix) :
    AnswersBytes (.decRound a (storeState m)) s (storeState (decryptRoundStep s.w m r)) := by
  obtain ⟨r, _⟩ := r
  obtain rfl : a.toNat = r := ha
  exact answersBytes_storeState (f := (decryptRoundStep s.w · _)) (execDecRound_valid hv hr _)

end

/-- R62: every round number fits the argument of a command. -/
theorem toNat_ofNat_of_le_nr {z : KeySize} {r : Nat} (h : r ≤ z.nr) : (BitVec.ofNat 8 r).toNat = r := by
  have := z.nr_lt
  exact Nat.mod_eq_of_lt (by omega)

/-- Settles O24: the blocks of the chain store the states after each round. -/
theorem cipherIsItsUnitCommands : Obligations.CipherIsItsUnitCommands := by
  intro s b hv
  constructor
  · refine ⟨fun r => storeState (cipherAfter s.w s.ksz (loadState b) r),
      addRoundKey_answers hv (a := 0) (r := 0) rfl (Nat.zero_le _) b, fun r h1 hr => ?_, ?_⟩
    · obtain ⟨n, rfl⟩ : ∃ n, r = n + 1 := ⟨r - 1, by omega⟩
      simp only [cipherAfter_succ s.w (loadState b) hr]
      exact encRound_answers hv (r := ⟨n + 1, _⟩) (toNat_ofNat_of_le_nr hr) h1 hr _
    · simp only [cipherAfter_nr]
      exact answersBytes_of_respondBytes (exec_encrypt hv b)
  · refine ⟨fun r => storeState (invCipherAfter s.w s.ksz (loadState b) (s.ksz.nr - r)), ?_, fun r hr => ?_, ?_⟩
    · simp only [Nat.sub_self]
      exact addRoundKey_answers hv (r := lastRound s.ksz) (toNat_ofNat_of_le_nr le_rfl) le_rfl b
    · simp only [invCipherAfter_sub s.w (loadState b) hr]
      exact decRound_answers hv (r := ⟨r, _⟩) (toNat_ofNat_of_le_nr hr.le) hr _
    · simp only [Nat.sub_zero, invCipherAfter_nr]
      exact answersBytes_of_respondBytes (exec_decrypt hv b)

end Sys2Proof.Machine
end

section

/-! The exceptions family (60_exceptions.md): a command ends with the status that `Check` computes (R242), which is said
once for every instruction and command; the errors (R243), the need for a key (R244) and the ranges (R245) are read off
it. Then the absence of faults (R258, R259) and the independence of several cores (R256). -/

set_option autoImplicit false

namespace Sys2Proof

/-- R7: every key size has rounds. -/
theorem KeySize.nr_pos (z : KeySize) : 0 < z.nr := by cases z <;> decide

end Sys2Proof

namespace Sys2Proof.Machine

open Sys2Proof.Claims

/-! The checks (R242). -/

theorem keyedOp_iff_mem (op : Opcode) :
    keyedOp op = true
      ↔ op ∈ [Opcode.readKey, .encrypt, .decrypt, .readSchedWord, .addRoundKey, .encRound, .decRound] := by
  cases op <;> decide

/-- R245: the four ranges that an argument can be outside of. -/
theorem inRange_eq_false_iff (op : Opcode) (a : Byte) (z : KeySize) :
    inRange op a z = false
      ↔ (op = .readSchedWord ∧ ¬ a.toNat ≤ 4 * (z.nr + 1) - 1) ∨ (op = .addRoundKey ∧ ¬ a.toNat ≤ z.nr)
          ∨ (op = .encRound ∧ ¬ (1 ≤ a.toNat ∧ a.toNat ≤ z.nr)) ∨ (op = .decRound ∧ ¬ a.toNat ≤ z.nr - 1) := by
  cases op <;> simp [inRange]

section
variable {op : Opcode}

/-- Every indexed command is keyed. -/
theorem inRange_of_not_keyed (hop : keyedOp op = false) (a : Byte) (z : KeySize) : inRange op a z = true := by
  cases op with
  | readKey | encrypt | decrypt | readSchedWord | addRoundKey | encRound | decRound => cases hop
  | _ => rfl

theorem checkStatus_of_not_keyed (hop : keyedOp op = false) (z : KeySize) (a : Byte) (active : Option KeySize) :
    checkStatus (.cmd op z a) active = .ok := by
  simp [checkStatus, hop]

variable {s : State} (hop : keyedOp op = true) (z : KeySize) (a : Byte)
include hop

theorem checkStatus_of_noKey (hv : s.keyValid = false) : checkStatus (.cmd op z a) s.activeSize = .noKey := by
  simp [checkStatus, hop, State.activeSize, hv]

theorem checkStatus_of_key (hv : s.keyValid = true) :
    checkStatus (.cmd op z a) s.activeSize = if inRange op a s.ksz then .ok else .range := by
  simp [checkStatus, hop, State.activeSize, hv]

end

/-- R242: the status that `Check` computes is that of its first failing check. -/
theorem firstFailing_eq_checkStatus (d : WordDecode) (s : State) : firstFailing d s = checkStatus d s.activeSize := by
  cases d with
  | illegal | badKeySize => rfl
  | cmd op z a =>
    simp only [firstFailing, ← keyedOp_iff_mem, ← inRange_eq_false_iff]
    cases hop : keyedOp op with
    | false => simp [checkStatus_of_not_keyed hop, inRange_of_not_keyed hop]
    | true =>
      cases hv : s.keyValid with
      | false => simp [checkStatus_of_noKey hop z a hv]
      | true => cases hr : inRange op a s.ksz <;> simp [checkStatus_of_key hop z a hv, hr]

/-! What a command ends with. -/

/-- R242, R243: a command run in `s` ends with a response of status `st`, and an error is raised in `s` itself. -/
structure EndsWith (s : State) (o : Result) (st : Status) : Prop where
  offered : ∃ u r, o = .next (State.offer u r) ∧ r.status = st
  raised : st ≠ .ok → o = raise st s

theorem raise_endsWith (s : State) (e : Status) : EndsWith s (raise e s) e := ⟨⟨s, _, raise_eq s e, rfl⟩, fun _ => rfl⟩

theorem respondOk_endsWith (s u : State) (rksz : BitVec 2) (d : Bytes32) : EndsWith s (respond .ok rksz d u) .ok :=
  ⟨⟨u, _, respond_eq u .ok rksz d, rfl⟩, fun h => absurd rfl h⟩

section
variable {s : State} {op : Opcode} {k : KeySize → Result} (hop : keyedOp op = true) (z : KeySize) (a : Byte)
include hop

/-- R244: a keyed command ends with its status if it does with a key. -/
theorem keyed_endsWith
    (hk : s.keyValid = true → EndsWith s (k s.ksz) (if inRange op a s.ksz then .ok else .range)) :
    EndsWith s (keyed s k) (checkStatus (.cmd op z a) s.activeSize) := by
  rcases keyed_cases s k with ⟨hv, e⟩ | ⟨hv, e⟩
  · rw [e, checkStatus_of_noKey hop z a hv]
    exact raise_endsWith s .noKey
  · rw [e, checkStatus_of_key hop z a hv]
    exact hk hv

/-- R245: an indexed command ends with its status if it answers OK with a key and its index in range. -/
theorem indexed_endsWith
    (hk : s.keyValid = true → inRange op a s.ksz = true → EndsWith s (k s.ksz) .ok) :
    EndsWith s (indexed op a s k) (checkStatus (.cmd op z a) s.activeSize) := by
  refine keyed_endsWith hop z a fun hv => ?_
  cases hr : inRange op a s.ksz with
  | false => exact raise_endsWith s .range
  | true => exact hk hv hr

end

section
variable (s : State) (z : KeySize)

theorem readKey_endsWith : EndsWith s (execReadKey s) (checkStatus (.cmd .readKey z 0) s.activeSize) := by
  refine keyed_endsWith rfl z 0 fun hv => ?_
  rw [readKeyReg_valid hv]
  exact respondOk_endsWith s s _ _

/-- ENCRYPT and DECRYPT, whose argument has no range. -/
theorem cipherCommand_endsWith {op : Opcode} (hop : op = .encrypt ∨ op = .decrypt)
    (f : ScheduleStore → KeySize → Block) :
    EndsWith s (keyed s fun z => readSchedule s fun w => respondBytes (f w z) s)
      (checkStatus (.cmd op z 0) s.activeSize) := by
  have hkeyed : keyedOp op = true := by rcases hop with rfl | rfl <;> rfl
  have hrange : inRange op 0 s.ksz = true := by rcases hop with rfl | rfl <;> rfl
  refine keyed_endsWith hkeyed z 0 fun hv => ?_
  rw [readSchedule_valid hv, if_pos hrange]
  exact respondOk_endsWith s s _ _

theorem readSchedWord_endsWith (i : Byte) :
    EndsWith s (execReadSchedWord i s) (checkStatus (.cmd .readSchedWord z i) s.activeSize) := by
  refine indexed_endsWith rfl z i fun hv hr => ?_
  have hi : i.toNat < s.ksz.schedLen := by
    simp only [inRange, decide_eq_true_eq] at hr
    unfold KeySize.schedLen
    omega
  rw [readScheduleWord_valid hv hi]
  exact respondOk_endsWith s s _ _

theorem roundCommand_endsWith {op : Opcode} (hop : op = .addRoundKey ∨ op = .encRound ∨ op = .decRound) (r : Byte)
    (f : KeySize → RoundKey → StateMatrix → StateMatrix) (blk : Block) :
    EndsWith s (indexed op r s fun z => readRoundKey z r.toNat s fun k => respondTransform (f z k) blk s)
      (checkStatus (.cmd op z r) s.activeSize) := by
  have hkeyed : keyedOp op = true := by rcases hop with rfl | rfl | rfl <;> rfl
  refine indexed_endsWith hkeyed z r fun hv hr => ?_
  rw [readRoundKey_valid hv (le_nr_of_inRange hop hr)]
  exact respondOk_endsWith s s _ _

end

/-- R242: every instruction ends with the status of its checks. -/
theorem exec_endsWith (i : Instr) (s : State) :
    EndsWith s (exec i s) (checkStatus (.cmd i.opcode i.keySize i.argBits) s.activeSize) := by
  cases i with
  | loadKey128 | loadKey192 | loadKey256 => exact respondOk_endsWith s (s.installKey _ _) _ _
  | readKey => exact readKey_endsWith s _
  | encrypt blk => exact cipherCommand_endsWith s _ (.inl rfl) fun w z => encryptBlock w z blk
  | decrypt blk => exact cipherCommand_endsWith s _ (.inr rfl) fun w z => decryptBlock w z blk
  | readSchedWord i => exact readSchedWord_endsWith s _ i
  | sbox | invSbox | xtime => exact respondOk_endsWith s s _ _
  | subBytes | invSubBytes | shiftRows | invShiftRows | mixColumns | invMixColumns =>
    exact respondOk_endsWith s s _ _
  | addRoundKey r blk => exact roundCommand_endsWith s _ (.inl rfl) r (fun _ k m => addRoundKey m k) blk
  | encRound r blk =>
    exact roundCommand_endsWith s _ (.inr (.inl rfl)) r (fun z k m => aesEncryptRound m k (r.toNat == z.nr)) blk
  | decRound r blk =>
    exact roundCommand_endsWith s _ (.inr (.inr rfl)) r (fun _ k m => aesDecryptRound m k (r.toNat == 0)) blk

/-- R241, R242: every command ends with the status of `Check` on its word. -/
theorem execCommand_endsWith (c : Command) (s : State) :
    EndsWith s (execCommand c s) (checkStatus (decodeWord s.params c.cw) s.activeSize) := by
  cases hw : decodeWord s.params c.cw with
  | illegal =>
    rw [execCommand_of_illegal hw]
    exact raise_endsWith s .illegal
  | badKeySize =>
    rw [execCommand_of_badKeySize hw]
    exact raise_endsWith s .keySize
  | cmd op z a =>
    obtain ⟨-, hfields⟩ := (decodeWord_eq_cmd_iff _ _ _ _ _).mp hw
    have hdec : decode s.params c = .cmd (bindOperands op z a c.cdata) := by simp only [decode, hw]
    have h := exec_endsWith (bindOperands op z a c.cdata) s
    rwa [← execCommand_of_decode hdec, bindOperands_opcode, bindOperands_keySize hfields,
      bindOperands_argBits hfields] at h

/-- R70, R242: the response that a step delivers has the status of `Check` on the command's word. -/
theorem status_of_step {s t : State} {c : Command} {cs : List Command} {r : Response} (hs : Issues s c cs)
    (ht : step s = .next t) (hr : t.responses = s.responses ++ [r]) :
    r.status = checkStatus (decodeWord s.params c.cw) s.activeSize := by
  obtain ⟨⟨u, q, e, hq⟩, -⟩ := execCommand_endsWith c s
  rw [step_of_issues hs, e, andThen_next, deliver_offer] at ht
  cases ht
  rw [takeResponse_responses] at hr
  obtain rfl : q = r := List.singleton_inj.mp (List.append_inj_right' hr rfl)
  exact hq

/-! The instructions by their checks (R244, R245). -/

section
variable {s : State} {i : Instr}

theorem answersError_of_checkStatus {e : Status} (he : e ≠ .ok)
    (h : checkStatus (.cmd i.opcode i.keySize i.argBits) s.activeSize = e) : AnswersError i s e := by
  subst h
  exact (exec_endsWith i s).raised he

theorem answersError_noKey (hop : keyedOp i.opcode = true) (hv : s.keyValid = false) : AnswersError i s .noKey :=
  answersError_of_checkStatus (by decide) (checkStatus_of_noKey hop _ _ hv)

theorem answersError_range (hop : keyedOp i.opcode = true) (hv : s.keyValid = true)
    (hr : inRange i.opcode i.argBits s.ksz = false) : AnswersError i s .range :=
  answersError_of_checkStatus (by decide) (by simp [checkStatus_of_key hop _ _ hv, hr])

/-- R25: only a LOAD_KEY writes `KEY_VALID`, and it writes 1. -/
theorem exec_keyValid_iff {t : State} (h : exec i s = .next t) :
    t.keyValid = true ↔ s.keyValid = true ∨ i.opcode = .loadKey := by
  by_cases hi : i.opcode = .loadKey
  · obtain ⟨z, kb, hload⟩ := exec_loadKey_writes hi
    obtain ⟨-, -, -, hvalid, -⟩ := hload _ _ h
    exact iff_of_true hvalid (.inr hi)
  · obtain ⟨r, rfl⟩ := eq_offer_of_exec h hi
    simp [hi]

end

/-- R245: the model's bounds are the table's numbers. -/
theorem tableLimits_eq (z : KeySize) : tableLimits z = (4 * (z.nr + 1) - 1, z.nr) := by cases z <;> rfl

section
variable {s : State} (hv : s.keyValid = true) {a : Byte}
include hv

theorem readSchedWord_range (h : 4 * (s.ksz.nr + 1) - 1 < a.toNat) : AnswersError (.readSchedWord a) s .range :=
  answersError_range rfl hv (decide_eq_false (Nat.not_le.mpr h))

variable (b : Block)

theorem addRoundKey_range (h : s.ksz.nr < a.toNat) : AnswersError (.addRoundKey a b) s .range :=
  answersError_range rfl hv (decide_eq_false (Nat.not_le.mpr h))

theorem encRound_range (h : a = 0 ∨ s.ksz.nr < a.toNat) : AnswersError (.encRound a b) s .range := by
  refine answersError_range rfl hv (decide_eq_false fun ⟨h1, hle⟩ => ?_)
  rcases h with rfl | h
  · exact Nat.not_succ_le_zero 0 h1
  · exact Nat.not_lt.mpr hle h

/-- The last round of decryption is `Nr - 1`, and there is one. -/
theorem decRound_range (h : s.ksz.nr ≤ a.toNat) : AnswersError (.decRound a b) s .range := by
  have hlast : s.ksz.nr - 1 < s.ksz.nr := Nat.sub_one_lt s.ksz.nr_pos.ne'
  exact answersError_range rfl hv (decide_eq_false (Nat.not_le.mpr (hlast.trans_le h)))

end

/-- R205: a LOAD_KEY answers OK without data. -/
theorem exec_loadKey_answers (s : State) {i : Instr} (hi : i.opcode = .loadKey) :
    ∃ t, exec i s = .next t ∧ t.phase = .respond { status := .ok, rksz := 0, rdata := zero32 } := by
  obtain ⟨z, kb, -, e⟩ := exec_eq_loadKey hi
  exact ⟨_, (e s).trans (loadKey_eq s z kb), rfl⟩

/-! Nothing stops (R258, R259). -/

theorem clock_next (inp : PortIn) (s : State) : ∃ t, clock inp s = .next t := by
  cases hrst : inp.rst with
  | true => exact ⟨_, clock_reset s inp hrst⟩
  | false =>
    cases hp : s.phase with
    | idle => exact ⟨_, clock_idle hrst hp⟩
    | respond r => exact ⟨_, clock_respond hrst hp⟩
    | busy c left =>
      rw [clock_busy hrst hp]
      split_ifs
      · obtain ⟨u, r, e, -⟩ := execCommand_answers c s
        exact ⟨_, e⟩
      · exact ⟨_, rfl⟩

theorem step_next (s : State) : ∃ t, step s = .next t := by
  obtain ⟨t, -, e, -⟩ := step_indistinguishable (Indistinguishable.refl s)
  exact ⟨t, e⟩

/-! Several cores (R256). -/

theorem stepInstance_of_none {n : Nat} {cores : List State} (h : cores[n]? = none) :
    stepInstance n cores = .next cores := by
  simp only [stepInstance, h]

theorem stepInstance_of_step {n : Nat} {cores : List State} {s t : State} (h : cores[n]? = some s)
    (ht : step s = .next t) : stepInstance n cores = .next (cores.set n t) := by
  simp only [stepInstance, h, ht]

/-! The obligations of the family. -/

/-- Settles O5: every instruction ends with a response on offer, and so does the command that a step or an edge runs. -/
theorem nothingEverStops : Obligations.NothingEverStops := by
  refine ⟨fun i s => ?_, step_next, clock_next⟩
  obtain ⟨u, r, e, -⟩ := (exec_endsWith i s).offered
  exact ⟨_, r, e, offer_phase u r⟩

/-- Settles O15: a step delivers the response its command ends with, and that has the status of `Check`. -/
theorem statusIsTheFirstFailingCheck : Obligations.StatusIsTheFirstFailingCheck := by
  intro s c cs hs
  obtain ⟨t, r, ht, -, -, hr, -⟩ := step_answers hs
  exact ⟨t, r, ht, hr, (status_of_step hs ht hr).trans (firstFailing_eq_checkStatus _ s).symm⟩

/-- Settles O16: a command whose status is no OK raises it, so its step delivers that error to the state before it. -/
theorem errorWritesNoState : Obligations.ErrorWritesNoState := by
  intro s t c cs r hs ht hr hne
  have hraise : execCommand c s = raise r.status s := by
    have h := execCommand_endsWith c s
    rw [← status_of_step hs ht hr] at h
    exact h.raised hne
  rw [step_of_raise hs hraise] at ht
  cases ht
  have hresp : errorResponse r.status = r := List.singleton_inj.mp (List.append_inj_right' hr rfl)
  exact ⟨hresp.symm, by rw [hresp]⟩

/-- Settles O17: the key is the first check of a decoded keyed command, and a command that is not keyed has no check left
once it is decoded. -/
theorem keyedCommandsNeedAKey : Obligations.KeyedCommandsNeedAKey := by
  refine ⟨rfl, fun i s => answersError_noKey, fun i s hop => ?_, fun i s t => exec_keyValid_iff⟩
  obtain ⟨u, r, e, hr⟩ := (exec_endsWith i s).offered
  exact ⟨_, r, e, offer_phase u r, hr.trans (checkStatus_of_not_keyed hop _ _ _)⟩

/-- Settles O18: outside the table the range check fails, and inside it every read of the command goes through. -/
theorem indexRangesOfTheActiveKey : Obligations.IndexRangesOfTheActiveKey := by
  intro s a b hv
  simp only [tableLimits_eq]
  exact ⟨readSchedWord_range hv,
    fun h => ⟨_, answersBytes_of_respondBytes (execReadSchedWord_valid hv (Nat.lt_of_le_sub_one (Nat.succ_pos _) h))⟩,
    addRoundKey_range hv b, fun h => ⟨_, answersBytes_of_respondBytes (execAddRoundKey_valid hv h b)⟩,
    encRound_range hv b, fun ⟨h1, h⟩ => ⟨_, answersBytes_of_respondBytes (execEncRound_valid hv h h1 b)⟩,
    decRound_range hv b, fun h => ⟨_, answersBytes_of_respondBytes (execDecRound_valid hv h b)⟩,
    ⟨_, answersBytes_of_respondBytes (exec_encrypt hv b)⟩, ⟨_, answersBytes_of_respondBytes (exec_decrypt hv b)⟩,
    fun _ => exec_loadKey_answers s⟩

/-- Settles O52: the step of a core never stops, and it replaces that core's entry of the list alone. -/
theorem instancesAreIndependent : Obligations.InstancesAreIndependent := by
  intro n cores cores' h
  cases hn : cores[n]? with
  | none =>
    rw [stepInstance_of_none hn] at h
    cases h
    exact ⟨rfl, fun _ _ => rfl, fun s hs => (nomatch hs)⟩
  | some s =>
    obtain ⟨t, ht⟩ := step_next s
    rw [stepInstance_of_step hn ht] at h
    cases h
    obtain ⟨hlt, -⟩ := List.getElem?_eq_some_iff.mp hn
    refine ⟨List.length_set, fun m hm => List.getElem?_set_ne hm.symm, fun s' hs' => ?_⟩
    cases hs'
    exact ⟨t, ht, List.getElem?_set_self hlt⟩

end Sys2Proof.Machine
end

section

/-! The port family (70_reset_and_hazards.md): the pins by the phase (R277 to R280), the reset edge and the run it closes
(R270, R271, R287), and the cycles of one command without reset, whose end is the step of the transaction level (R278). -/

set_option autoImplicit false

namespace Sys2Proof.Machine

open Sys2Proof.Claims

/-! The pins the core drives (R277 to R280). -/

theorem isIdle_iff (s : State) : s.isIdle = true ↔ s.phase = .idle := by
  unfold State.isIdle
  cases s.phase <;> simp

/-- R278, R280: the core is ready in IDLE alone. -/
theorem portOutputs_cmdReady_of_not_idle {s : State} (h : s.phase ≠ .idle) (rst : Bool) (free : FreePins) :
    (portOutputs rst free s).cmdReady = false := by
  have hidle : s.isIdle = false := Bool.eq_false_iff.mpr fun hi => h ((isIdle_iff s).mp hi)
  rw [portOutputs_cmdReady, hidle, Bool.false_and]

theorem portOutputs_cmdReady_of_idle {s : State} (h : s.phase = .idle) (free : FreePins) :
    (portOutputs false free s).cmdReady = true := by
  rw [portOutputs_cmdReady, (isIdle_iff s).mpr h, Bool.not_false, Bool.true_or, Bool.and_true]

/-- R270, R279: a response is valid on the pins in RESPOND without `rst`, and never else. -/
theorem portOutputs_rspValid_iff (rst : Bool) (free : FreePins) (s : State) :
    (portOutputs rst free s).rspValid = true ↔ rst = false ∧ ∃ r, s.phase = .respond r := by
  unfold portOutputs
  cases s.phase <;> cases rst <;> simp

theorem portOutputs_rspValid_of_rst (free : FreePins) (s : State) : (portOutputs true free s).rspValid = false :=
  Bool.eq_false_iff.mpr fun hvalid => nomatch (portOutputs_rspValid_iff true free s).mp hvalid

theorem portOutputs_rspValid_of_not_respond {s : State} (h : ∀ r, s.phase ≠ .respond r) (rst : Bool) (free : FreePins) :
    (portOutputs rst free s).rspValid = false := by
  refine Bool.eq_false_iff.mpr fun hvalid => ?_
  obtain ⟨-, r, hr⟩ := (portOutputs_rspValid_iff rst free s).mp hvalid
  exact h r hr

/-- R240: the model's status values are the five of the table. -/
theorem code_eq_statusValue (e : Status) : e.code = statusValue e := by cases e <;> rfl

/-- R279: what the pins carry in RESPOND. -/
theorem portOutputs_respond {s : State} {r : Response} (h : s.phase = .respond r) (free : FreePins) :
    portOutputs false free s
      = { cmdReady := false, rspValid := true, rspStatus := statusValue r.status, rspKsz := r.rksz,
          rspData := packBus r.rdata } := by
  simp [portOutputs, State.isIdle, h, code_eq_statusValue]

/-! Reset (R270, R271, R287). -/

/-- R33, R34: without a key the view shows no register. -/
theorem coreView_noKey {s : State} (hv : s.keyValid = false) :
    s.coreView = { key := none, ksz := none, keyValid := false, w := none } := if_neg (by simp [hv])

theorem runBegun_iff (s : State) : s.runBegun = true ↔ s.phase ≠ .idle ∨ s.responses ≠ [] := by
  rw [← Bool.not_eq_false, runBegun_eq_false, Classical.not_and_iff_not_or_not]

/-- R287: a reset leaves the new run without responses: those of a run that has begun are closed away with it. -/
theorem closeRun_resetCore_responses (s : State) : (closeRun s s.resetCore).responses = [] := by
  rw [closeRun_responses]
  split_ifs with h
  · rfl
  · obtain ⟨-, hresp⟩ := (runBegun_eq_false s).mp (Bool.eq_false_iff.mpr h)
    exact hresp

/-- R271: the command in flight by the phase; in RESPOND it is still the host's next one. -/
theorem inFlight_of_idle {s : State} (h : s.phase = .idle) : s.inFlight = none := by
  simp only [State.inFlight, h]

theorem inFlight_of_busy {s : State} {c : Command} {left : Nat} (h : s.phase = .busy c left) : s.inFlight = some c := by
  simp only [State.inFlight, h]

theorem inFlight_of_respond {s : State} {r : Response} {c : Command} {cs : List Command} (h : s.phase = .respond r)
    (hpend : s.pending = c :: cs) : s.inFlight = some c := by
  simp only [State.inFlight, h, hpend, List.head?_cons]

/-! One cycle without reset, by the phase (R278, R279). -/

/-- R79: an idle core with a command is offered it. -/
theorem hostPins_of_issues {s : State} {c : Command} {cs : List Command} (h : Issues s c cs) (rst rdy : Bool) :
    hostPins rst rdy s
      = { rst := rst, cmdValid := true, cmdWord := c.cw, cmdData := packBus c.cdata, rspReady := rdy } := by
  obtain ⟨hidle, hpend⟩ := h
  simp only [hostPins, (isIdle_iff s).mpr hidle, hpend, if_true]

theorem takenResponse_of_respond {s : State} {r : Response} (h : s.phase = .respond r) (rdy : Bool) :
    takenResponse (hostPins false rdy s) s = if rdy then some r else none := by
  simp [takenResponse, h]

/-- R79: without reset and without a response on offer the host does nothing but drive its pins. -/
theorem cycle_eq_clock {s : State} (h : ∀ r, s.phase ≠ .respond r) (rdy : Bool) :
    cycle false rdy s = clock (hostPins false rdy s) s := by
  have hnone : takenResponse (hostPins false rdy s) s = none :=
    Option.eq_none_iff_forall_ne_some.mpr fun r hr => h r (phase_of_takenResponse hr)
  have hmoves : ∀ t, hostMoves (hostPins false rdy s) s t = t := fun t => by simp [hostMoves, hnone]
  obtain ⟨t, ht⟩ := clock_next (hostPins false rdy s) s
  rw [cycle, ht, andThen_next, hmoves]

/-- R48, R279: the word and the data that the host packs on the bus are the ones the core samples. -/
theorem cycle_of_issues {s : State} {c : Command} {cs : List Command} (h : Issues s c cs) (rdy : Bool) :
    cycle false rdy s = .next (s.accept c) := by
  have hpins := hostPins_of_issues h false rdy
  obtain ⟨hidle, -⟩ := h
  rw [cycle_eq_clock (fun r hr => nomatch hidle.symm.trans hr), hpins, clock_idle rfl hidle, if_pos rfl, unpackBus_packBus]

theorem cycle_busy {s : State} {c : Command} {left : Nat} (h : s.phase = .busy c left) (rdy : Bool) :
    cycle false rdy s = if left ≤ 1 then execCommand c s else .next { s with phase := .busy c (left - 1) } := by
  rw [cycle_eq_clock (fun r hr => nomatch h.symm.trans hr), clock_busy (hostPins_rst s false rdy) h]

/-- R279: the host takes the response on offer on the edge with `rsp_ready`, and only then. -/
theorem cycle_respond {s : State} {r : Response} (h : s.phase = .respond r) (rdy : Bool) :
    cycle false rdy s = .next (if rdy then s.takeResponse r else s) := by
  rw [cycle, clock_respond (hostPins_rst s false rdy) h, andThen_next, hostMoves, takenResponse_of_respond h]
  cases rdy <;> simp [State.takeResponse]

/-! The cycles of one command (R278, R281). -/

/-- R281: a command reads no phase, and it ends by writing it. -/
theorem exec_withPhase (i : Instr) (s : State) (p : Phase) : exec i { s with phase := p } = exec i s := by
  cases i <;> rfl

theorem execCommand_withPhase (c : Command) (s : State) (p : Phase) :
    execCommand c { s with phase := p } = execCommand c s := by
  unfold execCommand
  cases decode s.params c with
  | cmd i => exact exec_withPhase i s p
  | illegal | badKeySize => rfl

theorem andThen_next_right (o : Result) : andThen o .next = o := by cases o <;> rfl

theorem andThen_assoc (o : Result) (f g : State → Result) : andThen (andThen o f) g = andThen o fun t => andThen (f t) g := by
  cases o <;> rfl

theorem runCycles_append (as bs : List Bool) (s : State) :
    runCycles (as ++ bs) s = andThen (runCycles as s) (runCycles bs) := by
  induction as generalizing s with
  | nil => rfl
  | cons a as ih =>
    rw [List.cons_append, runCycles, runCycles, andThen_assoc]
    exact congrArg (andThen (cycle false a s)) (funext ih)

theorem runCycles_cons {s t : State} {rdy : Bool} (h : cycle false rdy s = .next t) (rest : List Bool) :
    runCycles (rdy :: rest) s = runCycles rest t := by
  rw [runCycles, h, andThen_next]

/-- R281: while cycles of the latency are left, BUSY counts them down, whatever `rsp_ready` does. -/
theorem runCycles_busy {c : Command} {left : Nat} (ready : List Bool) (hlen : ready.length < left) (s : State)
    (h : s.phase = .busy c left) :
    runCycles ready s = .next { s with phase := .busy c (left - ready.length) } := by
  induction ready generalizing left s with
  | nil => rw [runCycles, List.length_nil, Nat.sub_zero, ← h]
  | cons rdy rest ih =>
    rw [List.length_cons] at hlen
    have hcycle : cycle false rdy s = .next { s with phase := .busy c (left - 1) } := by
      rw [cycle_busy h, if_neg (by omega)]
    rw [runCycles_cons hcycle, ih (by omega) _ rfl, List.length_cons, Nat.sub_sub, Nat.add_comm]

/-- R278, R281: the last cycle of the latency runs the command. -/
theorem runCycles_latency {c : Command} {left : Nat} (hpos : 1 ≤ left) {ready : List Bool} (hlen : ready.length = left)
    {s : State} (h : s.phase = .busy c left) : runCycles ready s = execCommand c s := by
  subst hlen
  obtain rfl | ⟨init, rdy, rfl⟩ := List.eq_nil_or_concat' ready
  · exact absurd hpos (Nat.not_succ_le_zero 0)
  rw [List.length_append, List.length_singleton] at h
  rw [runCycles_append, runCycles_busy init (Nat.lt_succ_self _) s h, andThen_next, runCycles, cycle_busy rfl, if_pos (by omega),
    execCommand_withPhase]
  exact andThen_next_right _

/-- R279: a response that is not taken stands. -/
theorem runCycles_waiting {s : State} {r : Response} (h : s.phase = .respond r) (wait : Nat) :
    runCycles (List.replicate wait false) s = .next s := by
  induction wait with
  | zero => rfl
  | succ wait ih => rw [List.replicate_succ, runCycles_cons (cycle_respond h false)]; exact ih

section
variable {s : State} {c : Command} {cs : List Command} (h : Issues s c cs)
include h

/-- R278: the cycle of acceptance and all but the last cycle of the latency. -/
theorem runCycles_accepted {ready : List Bool} (hpos : 1 ≤ ready.length)
    (hlen : ready.length ≤ latencyOf s.params s.activeSize c.cw) :
    ∃ t left, runCycles ready s = .next t ∧ t.phase = .busy c left := by
  cases ready with
  | nil => exact absurd hpos (Nat.not_succ_le_zero 0)
  | cons rdy rest =>
    rw [runCycles_cons (cycle_of_issues h rdy), runCycles_busy rest hlen _ (accept_phase s c)]
    exact ⟨_, _, rfl, rfl⟩

/-- R278: acceptance and the whole latency do what the command does to the state it was accepted in. -/
theorem runCycles_executed {ready : List Bool} (hlen : ready.length = latencyOf s.params s.activeSize c.cw + 1) :
    runCycles ready s = execCommand c s := by
  cases ready with
  | nil => cases hlen
  | cons rdy rest =>
    rw [runCycles_cons (cycle_of_issues h rdy),
      runCycles_latency (latencyOf_pos _ _ _) (Nat.succ.inj hlen) (accept_phase s c)]
    exact execCommand_withPhase c s _

end

/-! The obligations of the family. -/

/-- Settles O44: the edge resets the core, and the pins of the next cycle are those of IDLE. -/
theorem resetEdgeGivesTheResetState : Obligations.ResetEdgeGivesTheResetState := by
  intro inp s free hrst
  exact ⟨portOutputs_rspValid_of_rst free s, s.resetCore, clock_reset s inp hrst, rfl, rfl, coreView_noKey rfl,
    portOutputs_cmdReady_of_idle (resetCore_phase s) free,
    portOutputs_rspValid_of_not_respond (fun r hr => nomatch (resetCore_phase s).symm.trans hr) false free⟩

/-- Settles O50: a latency reads the command word, the parameters and the size of the active key, and these agree. -/
theorem latencyIsDataIndependent : Obligations.LatencyIsDataIndependent := by
  intro s s' c c' hcw hparams hvalid hksz
  have hactive : s'.activeSize = s.activeSize := by
    unfold State.activeSize
    rw [← hvalid]
    split_ifs with hv
    · rw [hksz hv]
    · rfl
  refine ⟨latencyOf s.params s.activeSize c.cw, latencyOf_pos _ _ _, accept_phase s c, ?_⟩
  rw [accept_phase, hactive, ← hparams, ← hcw]

/-- Settles O45: the responses move with the run that the reset closes, and `KEY_VALID` is 0 after it. -/
theorem resetAbortsTheCommandInFlight : Obligations.ResetAbortsTheCommandInFlight := by
  intro s rdy
  refine ⟨_, cycle_reset s rdy, closeRun_allResponses s _ rfl rfl, closeRun_phase s _, fun i hi => ?_⟩
  exact answersError_noKey hi (closeRun_keyValid s _)

/-- Settles O55: the run that a reset closes is the host's record of the state before it. -/
theorem resetSplitsTheRun : Obligations.ResetSplitsTheRun := by
  intro s rdy
  refine ⟨_, cycle_reset s rdy, closeRun_resetCore_responses s, closeRun_pending s _, fun hidle hresp => ?_, fun hbegun => ?_⟩
  · rw [closeRun_pastRuns, (runBegun_eq_false s).mpr ⟨hidle, hresp⟩]
    rfl
  · refine ⟨s.closedRun, ?_, rfl, closedRun_ended s, inFlight_of_idle, fun _ _ => inFlight_of_busy,
      fun _ _ _ => inFlight_of_respond⟩
    rw [closeRun_pastRuns, if_pos ((runBegun_iff s).mpr hbegun)]
    rfl

/-- Settles O46: the pins and the edge, phase by phase. -/
theorem handshakeOfBothPorts : Obligations.HandshakeOfBothPorts := by
  refine ⟨fun inp s free hrst => ⟨fun hidle => ?_, fun r hr => ?_⟩, fun rst s free c left hbusy => ?_⟩
  · have hclock := clock_idle hrst hidle
    refine ⟨portOutputs_cmdReady_of_idle hidle free,
      portOutputs_rspValid_of_not_respond (fun r hr => nomatch hidle.symm.trans hr) false free, fun hvalid => ?_,
      fun hvalid => ⟨_, latencyOf_pos s.params s.activeSize inp.cmdWord, ?_⟩⟩
    · rw [hclock, hvalid]
      rfl
    · rw [hclock, hvalid]
      rfl
  · have hclock := clock_respond hrst hr
    exact ⟨portOutputs_respond hr free, fun hready => by rw [hclock, hready]; rfl, fun hready => by rw [hclock, hready]; rfl⟩
  · exact ⟨portOutputs_cmdReady_of_not_idle (fun hidle => nomatch hbusy.symm.trans hidle) rst free,
      portOutputs_rspValid_of_not_respond (fun r hr => nomatch hbusy.symm.trans hr) rst free⟩

/-- Settles O47: only an edge in BUSY leaves the core in BUSY, with the same command and one cycle fewer. -/
theorem oneOutstandingCommand : Obligations.OneOutstandingCommand := by
  intro inp s t free hbusy ht
  refine ⟨portOutputs_cmdReady_of_not_idle hbusy inp.rst free, fun c left htc => ?_⟩
  cases hrst : inp.rst with
  | true =>
    rw [clock_reset s inp hrst] at ht
    cases ht
    cases htc
  | false =>
    cases hp : s.phase with
    | idle => exact absurd hp hbusy
    | busy c' n =>
      rw [clock_busy hrst hp] at ht
      split_ifs at ht with hn
      · obtain ⟨u, r, e, -⟩ := execCommand_answers c' s
        rw [e] at ht
        cases ht
        cases htc
      · cases ht
        cases htc
        rw [Nat.sub_add_cancel (by omega)]
    | respond r =>
      rw [clock_respond hrst hp] at ht
      cases ht
      split_ifs at htc
      cases hp.symm.trans htc

/-- Settles O48: the latency counts down in BUSY, and its last cycle runs the command, which offers its response. -/
theorem responseIsOfferedAfterItsLatency : Obligations.ResponseIsOfferedAfterItsLatency := by
  intro s c cs ready hs
  refine ⟨runCycles_accepted hs, fun hlen => ?_⟩
  obtain ⟨u, r, e, -⟩ := execCommand_answers c s
  exact ⟨_, r, (runCycles_executed hs hlen).trans e, offer_phase u r⟩

/-- Settles O49: acceptance and latency run the command, its response stands through the wait, and the last edge takes it
as the step does. -/
theorem cyclesRefineTheStep : Obligations.CyclesRefineTheStep := by
  intro s c cs ready wait hs hlen
  obtain ⟨u, r, e, -⟩ := execCommand_answers c s
  have hoffer : runCycles ready s = .next (u.offer r) := (runCycles_executed hs hlen).trans e
  have htaken : runCycles [true] (u.offer r) = .next (u.takeResponse r) :=
    runCycles_cons (cycle_respond (offer_phase u r) true) []
  calc runCycles (ready ++ List.replicate wait false ++ [true]) s
    _ = .next (u.takeResponse r) := by
      rw [runCycles_append, runCycles_append, hoffer, andThen_next, runCycles_waiting (offer_phase u r), andThen_next, htaken]
    _ = step s := by rw [step_of_issues hs, e, andThen_next, deliver_offer]

end Sys2Proof.Machine
end
